-- ==== Sys2Proof/Word.lean ====
section
/-! DEFINITION. The bit strings of the Neumann-calc core, and the text of its toolchain. -/

namespace Sys2Proof

/-- The 8-bit content of a memory cell, of IR, IBR, AC and RE (00_scope.md R6, `DATA_W`).  Bit 7 is the leftmost (R7). -/
abbrev Word := BitVec 8

/-- A 4-bit cell address, the width of PC and MAR (00_scope.md R6, `ADDR_W`). -/
abbrev Addr := BitVec 4

/-- The 4-bit opcode field of an instruction word (00_scope.md R6, `OPC_W`). -/
abbrev Opcode := BitVec 4

/-- Text as the toolchain and the display use it, one character after the other.  DESIGN CHOICE, log entry 15. -/
abbrev Text := List Char

end Sys2Proof
end

