-- ==== Sys2Proof/Config.lean ====
section
/-! DEFINITION. The parameters of the core (00_scope.md R6) and the one value the spec leaves open. -/

namespace Sys2Proof.Config

/-- `NCELLS`: the number of memory cells, addresses `0000` to `1111` (00_scope.md R6). -/
def nCells : Nat := 16

/-- The largest natural number an 8-bit data word denotes; it stands for 127.5 (00_scope.md R6).
The boundary rests on the spec's decision D1: log entry 5. -/
def maxCode : Nat := 255

/-- How many opcode tokens a load may have, so that every computed operand address fits 4 bits
(30_encoding.md R74: `2k - 1 ≤ 15`). -/
def maxOpcodeTokens : Nat := 8

/-- FREE VALUE: the text the host shows for a data word whose half bit is 1.
30_encoding.md R80 leaves its form open (`DisplayText`, decision D13), so it has no body: log entry 12. -/
opaque halfText : Word → Text

end Sys2Proof.Config
end

