-- ==== Sys2Proof/Syntax.lean ====
section
/-! DEFINITION. The six instructions of NCALC-6 (30_encoding.md R61), one constructor per row of spec/opcode_table.json. -/

namespace Sys2Proof

/-- An instruction: an operation and the 4-bit cell address every instruction word carries (30_encoding.md R60, R63). -/
inductive Instr where
  /-- ADD, `0000 aaaa` (40_alu_arithmetic.md R100). -/
  | add (addr : Addr)
  /-- SUB, `0001 aaaa` (40_alu_arithmetic.md R101). -/
  | sub (addr : Addr)
  /-- DIV, `0010 aaaa` (40_alu_arithmetic.md R102). -/
  | div (addr : Addr)
  /-- MUL, `0011 aaaa` (40_alu_arithmetic.md R103). -/
  | mul (addr : Addr)
  /-- SAVE, `0100 aaaa` (41_store_halt.md R121). -/
  | save (addr : Addr)
  /-- END, `0101 aaaa`; no rule reads the address (41_store_halt.md R123), but the word carries one (30_encoding.md R63). -/
  | halt (addr : Addr)
deriving DecidableEq, Repr

/-- The opcode of an instruction (30_encoding.md R61). -/
def Instr.opcode : Instr → Opcode
  | .add _  => 0b0000#4
  | .sub _  => 0b0001#4
  | .div _  => 0b0010#4
  | .mul _  => 0b0011#4
  | .save _ => 0b0100#4
  | .halt _ => 0b0101#4

/-- The address field of an instruction (30_encoding.md R63). -/
def Instr.addr : Instr → Addr
  | .add a  => a
  | .sub a  => a
  | .div a  => a
  | .mul a  => a
  | .save a => a
  | .halt a => a

end Sys2Proof
end

