-- ==== Sys2Proof/WellFormed.lean ====
section
/-! DEFINITION. Which opcodes, words and instructions are well formed. -/

namespace Sys2Proof

/-- The opcodes `0000` to `0101` are the valid ones; the ten opcodes `0110` to `1111` are invalid (30_encoding.md R61, R62). -/
def opcodeValid (op : Opcode) : Bool := op.toNat < 6

/-- A word is an instruction word when the opcode in its top four bits is valid; all sixteen addresses are legal for
every opcode (30_encoding.md R60, R62, R63). -/
def wordValid (w : Word) : Bool := opcodeValid (w.extractLsb' 4 4)

/-- An instruction is well formed when its opcode is valid and its address names one of the sixteen cells.
The types leave no ill-formed term: log entry 18. -/
def Instr.wf (i : Instr) : Bool := opcodeValid i.opcode && decide (i.addr.toNat < Config.nCells)

end Sys2Proof
end

