-- ==== Sys2Proof/Decode.lean ====
section
/-! DEFINITION. The decoder, total on every word, and the encoder, both written from 30_encoding.md R60 and R61. -/

namespace Sys2Proof

/-- Why a word is no instruction. -/
inductive DecodeError where
  /-- The opcode is one of `0110` to `1111` (30_encoding.md R62). -/
  | invalidOpcode (opcode : Opcode)
deriving DecidableEq, Repr

/-- Bits 7:4 of a word (30_encoding.md R60). -/
def opcodeField (w : Word) : Opcode := w.extractLsb' 4 4

/-- Bits 3:0 of a word (30_encoding.md R60). -/
def addrField (w : Word) : Addr := w.extractLsb' 0 4

/-- The instruction a word stands for, by the opcode map of 30_encoding.md R61; the other ten opcodes are rejected by name (R62). -/
def decode (w : Word) : Except DecodeError Instr :=
  match (opcodeField w).toNat with
  | 0 => .ok (.add (addrField w))
  | 1 => .ok (.sub (addrField w))
  | 2 => .ok (.div (addrField w))
  | 3 => .ok (.mul (addrField w))
  | 4 => .ok (.save (addrField w))
  | 5 => .ok (.halt (addrField w))
  | _ => .error (.invalidOpcode (opcodeField w))

/-- The word of an opcode and an address: the opcode is the more significant half (30_encoding.md R60). -/
def instrWord (op : Opcode) (a : Addr) : Word := op ++ a

/-- The word of an instruction (30_encoding.md R60, R61). -/
def encode (i : Instr) : Word := instrWord i.opcode i.addr

/-- The instruction the decoder reads from the low `nbits` bits of `w`.
An instruction is one 8-bit word (30_encoding.md R60); a number that needs more bits is none. -/
def decodeTableWord (nbits w : Nat) : Option Instr :=
  if w % 2 ^ nbits < 256 then (decode (BitVec.ofNat 8 (w % 2 ^ nbits))).toOption else none

end Sys2Proof
end

