-- ==== Sys2Proof/Machine/State.lean ====
section
/-! DEFINITION. The state of the Neumann-calc core (10_state.md), its reset value, and the ways a step can have no next state. -/

namespace Sys2Proof.Machine

/-- The memory array (10_state.md R18): the cells that hold a value, as pairs of cell index and word.
A cell that is not listed is `EMPTY`.  Log entry 20. -/
abbrev Memory := List Host.Cell

/-- The one canonical form of a memory: addresses strictly rising, and none outside the sixteen cells (20_memory.md R40).
No entry can equal what an unlisted cell reads as, since that is `EMPTY` and an entry holds a word. -/
abbrev Memory.wf (m : Memory) : Prop :=
  m.Pairwise (fun c d => c.1 < d.1) ∧ ∀ c ∈ m, c.1 < Config.nCells

/-- `PH`, the micro-step that comes next (10_state.md R19). -/
inductive Phase where
  | f1 | f2 | f3 | dec | x1 | x2
deriving DecidableEq, Repr

/-- `RUN` (10_state.md R20). -/
inductive RunState where
  | idle | running | stopped
deriving DecidableEq, Repr

/-- `CAUSE`, why the run stopped (10_state.md R21, 60_exceptions.md R160). -/
inductive Cause where
  | none | save | halt | overflow | underflow | divideByZero | invalidOpcode | emptyRead | pcWrap
deriving DecidableEq, Repr

/-- `DISP`, the value to display (10_state.md R23). -/
inductive Display where
  | blank
  | value (w : Word)
  | overflow
  | underflow
  | undefined
  | invalidInput
  | negative
deriving DecidableEq, Repr

/-- `SYM`, the current decoded opcode symbol (10_state.md R24). -/
inductive Symbol where
  | none | plus | minus | slash | star | save | halt
deriving DecidableEq, Repr

/-- The sixteen one-bit indicator flags (10_state.md R25).  They are sticky: R26, log entry 6. -/
structure Flags where
  litPc : Bool
  litMar : Bool
  litIbr : Bool
  litIr : Bool
  litAc : Bool
  litRe : Bool
  aluOn : Bool
  wPcMar : Bool
  wMarMem : Bool
  wMemMbr : Bool
  wMbrIbr : Bool
  wIbrIr : Bool
  wMbrAlu : Bool
  wAcAlu : Bool
  wAluAc : Bool
  wAluMbr : Bool
deriving DecidableEq, Repr

/-- Every indicator flag 0, the reset value (10_state.md R25, R29). -/
def Flags.clear : Flags :=
  { litPc := false, litMar := false, litIbr := false, litIr := false, litAc := false, litRe := false, aluOn := false,
    wPcMar := false, wMarMem := false, wMemMbr := false, wMbrIbr := false, wIbrIr := false, wMbrAlu := false,
    wAcAlu := false, wAluAc := false, wAluMbr := false }

/-- A snapshot, the core's only output (10_state.md R27).  `PH`, `RUN` and `CAUSE` are not part of it. -/
structure Snapshot where
  disp : Display
  mem : Memory
  memLit : Option Addr
  pc : Addr
  mar : Addr
  ir : Word
  ibr : Word
  ac : Word
  re : Word
  sym : Symbol
  flags : Flags
deriving DecidableEq, Repr

/-- The whole state of the core, and the trace of the run so far. -/
structure State where
  /-- `AC`, the accumulator (10_state.md R12). -/
  ac : Word
  /-- `PC`, the program counter (10_state.md R13). -/
  pc : Addr
  /-- `MAR`, the address of the cell being fetched (10_state.md R14). -/
  mar : Addr
  /-- `IBR`, the instruction as it arrives from memory (10_state.md R15). -/
  ibr : Word
  /-- `IR`, the instruction being executed (10_state.md R15). -/
  ir : Word
  /-- `RE`, the operand latch (10_state.md R16).  `MBR` is no state (R17): log entry 9. -/
  re : Word
  /-- The memory array (10_state.md R18). -/
  mem : Memory
  /-- `PH` (10_state.md R19). -/
  ph : Phase
  /-- `RUN` (10_state.md R20). -/
  run : RunState
  /-- `CAUSE` (10_state.md R21). -/
  cause : Cause
  /-- `DISP` (10_state.md R23). -/
  disp : Display
  /-- `SYM` (10_state.md R24). -/
  sym : Symbol
  /-- The indicator flags (10_state.md R25). -/
  flags : Flags
  /-- `MEMLIT`, the lit memory cell, if any (10_state.md R25). -/
  memLit : Option Addr
  /-- The trace: the snapshots of this run, the oldest first (10_state.md R28).  No rule reads it: log entry 3. -/
  trace : List Snapshot
deriving DecidableEq, Repr

/-- Why the machine has no next state although it may act. -/
inductive Fault where
  /-- Raised by `microStep` at `PH = X2` when `IR` holds no arithmetic instruction: `X2` exists only after an `X1` of ADD,
  SUB, DIV or MUL (42_control_cycle.md R141), so no rule says what happens.  Safe: the model stops; no run reaches it. -/
  | noSecondExecuteStep
deriving DecidableEq, Repr

/-- Why an operation has no meaning. -/
inductive Refusal where
  /-- Raised by an instruction that has no meaning in this model, under its mnemonic.  Safe: the model stops.  No arm of
  `exec` raises it. -/
  | notModelled (mnemonic : String)
  /-- Raised by every host operation, `MicroStep` among them, outside its "allowed when" of 42_control_cycle.md R135: the
  spec gives it no transition (93_implementation_defined.md I12).  Safe: the model stops.  Log entry 10. -/
  | hostOperationNotAllowed
  /-- Raised by the loader on a token list outside the bounds of 30_encoding.md R74, for which no load is defined
  (93_implementation_defined.md I10).  Safe: the model stops.  Log entry 13. -/
  | loadNotDefined
deriving DecidableEq, Repr

/-- What an operation of the machine answers. -/
abbrev Result := Host.Outcome State Fault Refusal

/-- The state after reset (10_state.md R29, 70_reset_and_hazards.md R185).  Log entry 4 names the values that R29 takes from
decisions of the spec. -/
def State.reset : State :=
  { ac := 0b00000000#8
    pc := 0b0000#4
    mar := 0b0000#4
    ibr := 0b00000000#8
    ir := 0b00000000#8
    re := 0b00000000#8
    mem := []
    ph := .f1
    run := .idle
    cause := .none
    disp := .blank
    sym := .none
    flags := Flags.clear
    memLit := none
    trace := [] }

end Sys2Proof.Machine
end

