-- ==== Sys2Proof/Machine/Ops.lean ====
section
/-! DEFINITION. The shared operations: memory, the snapshot and the trace, the stop, and the shape of a micro-step. -/

namespace Sys2Proof.Machine

/-- The word listed for the cell index `n`, if any. -/
def Memory.entry : Memory → Nat → Option Word
  | [], _ => none
  | c :: rest, n => if c.1 = n then some c.2 else Memory.entry rest n

/-- The list with `v` listed for the cell index `n`, in rising order of the indices. -/
def Memory.insert : Memory → Nat → Word → Memory
  | [], n, v => [(n, v)]
  | c :: rest, n, v =>
    if n < c.1 then (n, v) :: c :: rest
    else if c.1 = n then (n, v) :: rest
    else c :: Memory.insert rest n v

/-- `MemRead(a, 1)`: the content of cell `a`, `none` for `EMPTY` (20_memory.md R42). -/
def Memory.read (m : Memory) (a : Addr) : Option Word := Memory.entry m a.toNat

/-- `MemWrite(a, 1, v)`: cell `a` holds `v`, every other cell is kept (20_memory.md R43). -/
def Memory.write (m : Memory) (a : Addr) (v : Word) : Memory := Memory.insert m a.toNat v

/-- The snapshot of a state (10_state.md R27). -/
def State.snapshot (s : State) : Snapshot :=
  { disp := s.disp, mem := s.mem, memLit := s.memLit, pc := s.pc, mar := s.mar, ir := s.ir, ibr := s.ibr, ac := s.ac,
    re := s.re, sym := s.sym, flags := s.flags }

/-- Append the snapshot of the state as it is now to the trace (10_state.md R28, 42_control_cycle.md R144). -/
def record (s : State) : State := { s with trace := s.trace ++ [s.snapshot] }

/-- `raise Stop(c)`, the core's one exception entry: the run is stopped with its cause, `PH` is kept, nothing is saved and
control goes nowhere (60_exceptions.md R163).  There is no return from it (R165): only `Reset` leaves `STOPPED`
(`hostReset` in HostOps.lean). -/
def stop (c : Cause) (s : State) : State := { s with run := .stopped, cause := c }

/-- Perform one micro-step `f`: allowed only while `RUN = RUNNING`, and it appends exactly one snapshot, taken after its
effects, a stop included (42_control_cycle.md R135, R144). -/
def microStepWith (f : State → State) (s : State) : Result :=
  if s.run = .running then .next (record (f s)) else .refused .hostOperationNotAllowed

/-- Go on with `k` after `r` unless the run has stopped (42_control_cycle.md R142). -/
def andThen (r : Result) (k : State → Result) : Result :=
  match r with
  | .next s => if s.run = .running then k s else .next s
  | .fault e => .fault e
  | .refused e => .refused e

end Sys2Proof.Machine
end

