-- ==== Sys2Proof/Machine/Alu.lean ====
section
/-! DEFINITION. The ALU as a function on data words (40_alu_arithmetic.md R90 to R97), and the two ALU operations that are not
arithmetic (41_store_halt.md R120, R122).  A data word `w` stands for `w.toNat / 2` (30_encoding.md R65). -/

namespace Sys2Proof.Machine

/-- The outcome of an arithmetic operation (40_alu_arithmetic.md R90). -/
inductive AluOutcome where
  | success (r : Word)
  | overflow
  | underflow
  | divideByZero
deriving DecidableEq, Repr

/-- `enc(num / den) = floor(2 · num / den + 1/2)` for a positive `den`: the code of the data word nearest to the quotient,
a tie going up (30_encoding.md R66, R67). -/
def enc (num den : Nat) : Nat := (4 * num + den) / (2 * den)

/-- The end of the pipeline of 40_alu_arithmetic.md R91: a code above 255 is OVERFLOW, any other is the result word. -/
def encoded (r : Nat) : AluOutcome :=
  if r > Config.maxCode then .overflow else .success (BitVec.ofNat 8 r)

/-- `add(AC, B)` (40_alu_arithmetic.md R92). -/
def aluAdd (a b : Word) : AluOutcome := encoded (a.toNat + b.toNat)

/-- `subtract(AC, B)` (40_alu_arithmetic.md R93). -/
def aluSub (a b : Word) : AluOutcome :=
  if a.toNat < b.toNat then .underflow else encoded (a.toNat - b.toNat)

/-- `multiply(AC, B)`: the product stands for `a · b / 4` (40_alu_arithmetic.md R94). -/
def aluMul (a b : Word) : AluOutcome := encoded (enc (a.toNat * b.toNat) 4)

/-- `divide(AC, B)`: the zero divisor is tested first (40_alu_arithmetic.md R95, R97). -/
def aluDiv (a b : Word) : AluOutcome :=
  if b.toNat = 0 then .divideByZero else encoded (enc a.toNat b.toNat)

/-- `storeToMemory(memory, address, snapshot)`: the accumulator goes to the cell and to the display (41_store_halt.md R120). -/
def storeToMemory (a : Addr) (s : State) : State := { s with mem := s.mem.write a s.ac, disp := .value s.ac }

/-- `halt()`: the accumulator is zeroed, nothing else is written (41_store_halt.md R122). -/
def haltAlu (s : State) : State := { s with ac := 0b00000000#8 }

end Sys2Proof.Machine
end

