-- ==== Sys2Proof/Machine/Flags.lean ====
section
/-! DEFINITION. The indicator flags each micro-step writes (42_control_cycle.md R148), the opcode symbol, and the codes and
texts of causes and displays.  A flag a function does not name keeps its value (10_state.md R26). -/

namespace Sys2Proof.Machine

/-- F1: PC→MAR and MAR lit, the accumulator no longer active (42_control_cycle.md R136). -/
def flagsF1 (f : Flags) : Flags := { f with wPcMar := true, litMar := true, litAc := false }

/-- F2 of a cell that is not empty (42_control_cycle.md R137). -/
def flagsF2 (f : Flags) : Flags := { f with wMarMem := true, wMemMbr := true, wMbrIbr := true, litIbr := true }

/-- F3 when `PC` can be incremented (42_control_cycle.md R138). -/
def flagsF3 (f : Flags) : Flags := { f with litPc := true, wMarMem := false, wMemMbr := false, wMbrIbr := false }

/-- DEC (42_control_cycle.md R139). -/
def flagsDec (f : Flags) : Flags := { f with wIbrIr := true, litIr := true, litPc := false, litIbr := false }

/-- X1 of an arithmetic instruction whose operand cell is not empty (40_alu_arithmetic.md R104). -/
def flagsX1Arith (f : Flags) : Flags := { f with wMemMbr := true, wMbrAlu := true, litRe := true, aluOn := true }

/-- X2 before the ALU's outcome is known: what X1 lit is cleared, ALU→AC is lit (40_alu_arithmetic.md R105). -/
def flagsX2 (f : Flags) : Flags :=
  { f with wMemMbr := false, wMbrAlu := false, litRe := false, aluOn := false, wAluAc := true }

/-- The ALU succeeded: the accumulator is marked active (40_alu_arithmetic.md R98). -/
def flagsAluSuccess (f : Flags) : Flags := { f with litAc := true }

/-- X1 of SAVE (41_store_halt.md R121). -/
def flagsSave (f : Flags) : Flags := { f with wAcAlu := true, wAluMbr := true }

/-- The symbol DEC shows for an opcode; an invalid opcode has none (42_control_cycle.md R139). -/
def symbolOf (op : Opcode) : Symbol :=
  match op.toNat with
  | 0 => .plus
  | 1 => .minus
  | 2 => .slash
  | 3 => .star
  | 4 => .save
  | 5 => .halt
  | _ => .none

/-- The code of a stop cause (60_exceptions.md R160). -/
def Cause.code : Cause → Nat
  | .none => 0
  | .save => 1
  | .halt => 2
  | .overflow => 3
  | .underflow => 4
  | .divideByZero => 5
  | .invalidOpcode => 6
  | .emptyRead => 7
  | .pcWrap => 8

/-- The text of a decimal digit. -/
def digitChar (n : Nat) : Char := Char.ofNat (48 + n)

/-- The decimal numeral of a number below 1000, without leading zeros. -/
def decimalText (n : Nat) : Text :=
  if n < 10 then [digitChar n]
  else if n < 100 then [digitChar (n / 10), digitChar (n % 10)]
  else [digitChar (n / 100), digitChar (n / 10 % 10), digitChar (n % 10)]

/-- `DisplayText(w)`, the text a host shows for `VALUE(w)` (30_encoding.md R80): the numeral of the integer part where the
half bit is 0, and the free value `Config.halfText` where it is 1.  Log entry 12. -/
def displayText (w : Word) : Text :=
  if w.getLsbD 0 then Config.halfText w else decimalText (w.toNat / 2)

/-- The default 30_encoding.md R80 gives for `DisplayText`, `.5` appended where the half bit is 1. -/
def displayTextDefault (w : Word) : Text :=
  decimalText (w.toNat / 2) ++ (if w.getLsbD 0 then ['.', '5'] else [])

/-- The text of a display value (10_state.md R23). -/
def Display.text : Display → Text
  | .blank => []
  | .value w => displayText w
  | .overflow => ['O', 'V', 'E', 'R', 'F', 'L', 'O', 'W']
  | .underflow => ['U', 'N', 'D', 'E', 'R', 'F', 'L', 'O', 'W']
  | .undefined => ['U', 'N', 'D', 'E', 'F', 'I', 'N', 'E', 'D']
  | .invalidInput => ['I', 'N', 'V', 'A', 'L', 'I', 'D', ' ', 'I', 'N', 'P', 'U', 'T']
  | .negative =>
    ['N', 'E', 'G', 'A', 'T', 'I', 'V', 'E', ' ', 'N', 'U', 'M', 'B', 'E', 'R', 'S', ' ', 'A', 'R', 'E', ' ',
     'N', 'O', 'T', ' ', 'A', 'L', 'L', 'O', 'W', 'E', 'D']

end Sys2Proof.Machine
end

