-- ==== Sys2Proof/Machine/Operands.lean ====
section
/-! DEFINITION. The one operand form, a direct cell address (30_encoding.md R64), and the two execute micro-steps the
arithmetic instructions share (40_alu_arithmetic.md R104, R105). -/

namespace Sys2Proof.Machine

/-- The operand an address names: the content of that cell, `none` for `EMPTY` (30_encoding.md R63, R64). -/
def operand (a : Addr) (s : State) : Option Word := s.mem.read a

/-- X1 of an arithmetic instruction: the operand goes to `RE`; an `EMPTY` cell stops the run and nothing else changes
(40_alu_arithmetic.md R104, 20_memory.md R44). -/
def readOperand (a : Addr) (s : State) : State :=
  match operand a s with
  | none => stop .emptyRead s
  | some b => { s with re := b, flags := flagsX1Arith s.flags, ph := .x2 }

/-- What X2 does with the outcome of the ALU (40_alu_arithmetic.md R98, R105): success writes `AC` and goes on at F1; a
failure shows its text, keeps `AC`, and stops. -/
def applyOutcome (o : AluOutcome) (s : State) : State :=
  match o with
  | .success r => { s with ac := r, flags := flagsAluSuccess s.flags, ph := .f1 }
  | .overflow => stop .overflow { s with disp := .overflow }
  | .underflow => stop .underflow { s with disp := .underflow }
  | .divideByZero => stop .divideByZero { s with disp := .undefined }

/-- X2 of an arithmetic instruction with the ALU operation `op` on `AC` and `RE` (40_alu_arithmetic.md R105). -/
def aluStep (op : Word → Word → AluOutcome) (s : State) : State :=
  applyOutcome (op s.ac s.re) { s with flags := flagsX2 s.flags }

end Sys2Proof.Machine
end

