-- ==== Sys2Proof/Machine/Arith.lean ====
section
/-! DEFINITION. The arithmetic instructions ADD, SUB, DIV, MUL (40_alu_arithmetic.md R100 to R103): the micro-steps X1 and X2
of each, and the meaning, which performs X1 and, unless it stopped the run, X2. -/

namespace Sys2Proof.Machine

/-- X1 of ADD (40_alu_arithmetic.md R100, R104). -/
def addX1 (a : Addr) (s : State) : State := readOperand a s

/-- X2 of ADD (40_alu_arithmetic.md R100, R105). -/
def addX2 (s : State) : State := aluStep aluAdd s

/-- ADD: `AC <- AC + Mem[addr]` (40_alu_arithmetic.md R100). -/
def execAdd (a : Addr) (s : State) : Result := andThen (microStepWith (addX1 a) s) (microStepWith addX2)

/-- X1 of SUB (40_alu_arithmetic.md R101, R104). -/
def subX1 (a : Addr) (s : State) : State := readOperand a s

/-- X2 of SUB (40_alu_arithmetic.md R101, R105). -/
def subX2 (s : State) : State := aluStep aluSub s

/-- SUB: `AC <- AC - Mem[addr]` (40_alu_arithmetic.md R101). -/
def execSub (a : Addr) (s : State) : Result := andThen (microStepWith (subX1 a) s) (microStepWith subX2)

/-- X1 of DIV (40_alu_arithmetic.md R102, R104). -/
def divX1 (a : Addr) (s : State) : State := readOperand a s

/-- X2 of DIV (40_alu_arithmetic.md R102, R105). -/
def divX2 (s : State) : State := aluStep aluDiv s

/-- DIV: `AC <- AC / Mem[addr]`, rounded (40_alu_arithmetic.md R102). -/
def execDiv (a : Addr) (s : State) : Result := andThen (microStepWith (divX1 a) s) (microStepWith divX2)

/-- X1 of MUL (40_alu_arithmetic.md R103, R104). -/
def mulX1 (a : Addr) (s : State) : State := readOperand a s

/-- X2 of MUL (40_alu_arithmetic.md R103, R105). -/
def mulX2 (s : State) : State := aluStep aluMul s

/-- MUL: `AC <- AC × Mem[addr]`, rounded (40_alu_arithmetic.md R103). -/
def execMul (a : Addr) (s : State) : Result := andThen (microStepWith (mulX1 a) s) (microStepWith mulX2)

end Sys2Proof.Machine
end

