-- ==== Sys2Proof/Machine/StoreHalt.lean ====
section
/-! DEFINITION. The instructions that end a run, SAVE and END, and what X1 does with an invalid opcode (41_store_halt.md).
Each takes one execute micro-step, X1. -/

namespace Sys2Proof.Machine

/-- X1 of SAVE (41_store_halt.md R121). -/
def saveX1 (a : Addr) (s : State) : State :=
  stop .save (storeToMemory a { s with flags := flagsSave s.flags })

/-- SAVE: `Mem[addr] <- AC`, `DISP <- VALUE(AC)`, stop (41_store_halt.md R121). -/
def execSave (a : Addr) (s : State) : Result := microStepWith (saveX1 a) s

/-- X1 of END; the address field is ignored (41_store_halt.md R123). -/
def endX1 (_a : Addr) (s : State) : State := stop .halt (haltAlu s)

/-- END: `AC <- 0`, stop (41_store_halt.md R123). -/
def execEnd (a : Addr) (s : State) : Result := microStepWith (endX1 a) s

/-- X1 of a word with an invalid opcode: the run stops, nothing else changes (41_store_halt.md R124). -/
def invalidX1 (s : State) : State := stop .invalidOpcode s

/-- The execute phase of a word with an invalid opcode (41_store_halt.md R124). -/
def execInvalid (s : State) : Result := microStepWith invalidX1 s

end Sys2Proof.Machine
end

