-- ==== Sys2Proof/Machine/Dispatch.lean ====
section
/-! DEFINITION. The meaning of every instruction: its execute phase, the micro-steps X1 and, for the arithmetic four, X2. -/

namespace Sys2Proof.Machine

def exec (i : Instr) (s : State) : Host.Outcome State Fault Refusal :=
  match i with
  | .add a => Sys2Proof.Machine.execAdd a s
  | .sub a => Sys2Proof.Machine.execSub a s
  | .div a => Sys2Proof.Machine.execDiv a s
  | .mul a => Sys2Proof.Machine.execMul a s
  | .save a => Sys2Proof.Machine.execSave a s
  | .halt a => Sys2Proof.Machine.execEnd a s

end Sys2Proof.Machine
end

