-- ==== Sys2Proof/Machine/Fetch.lean ====
section
/-! DEFINITION. The micro-steps of fetch and decode, common to all words (42_control_cycle.md R136 to R139). -/

namespace Sys2Proof.Machine

/-- F1, fetch (a): the address of the instruction goes to `MAR` (42_control_cycle.md R136). -/
def fetchA (s : State) : State := { s with mar := s.pc, flags := flagsF1 s.flags, ph := .f2 }

/-- F2, fetch (b): the cell at `MAR` goes to `IBR`; an `EMPTY` cell stops the run and nothing else changes
(42_control_cycle.md R137, 20_memory.md R44). -/
def fetchB (s : State) : State :=
  match s.mem.read s.mar with
  | none => stop .emptyRead s
  | some w => { s with ibr := w, flags := flagsF2 s.flags, memLit := some s.mar, ph := .f3 }

/-- F3, fetch (c): `PC` is incremented; from `1111` the run stops and nothing else changes (42_control_cycle.md R138). -/
def fetchC (s : State) : State :=
  if s.pc = 0b1111#4 then stop .pcWrap s
  else { s with pc := BitVec.ofNat 4 (s.pc.toNat + 1), flags := flagsF3 s.flags, memLit := none, ph := .dec }

/-- DEC: the instruction goes to `IR` and its symbol is shown (42_control_cycle.md R139). -/
def decodeStep (s : State) : State :=
  { s with ir := s.ibr, flags := flagsDec s.flags, sym := symbolOf (opcodeField s.ibr), ph := .x1 }

end Sys2Proof.Machine
end

