-- ==== Sys2Proof/Machine/Cycle.lean ====
section
/-! DEFINITION. The control unit: the micro-step selected by `PH` (42_control_cycle.md R142), and the instruction cycle, which
is the micro-steps from `PH` to the end of the cycle. -/

namespace Sys2Proof.Machine

/-- X1 of an instruction (42_control_cycle.md R140). -/
def executeX1 : Instr → State → State
  | .add a, s => addX1 a s
  | .sub a, s => subX1 a s
  | .div a, s => divX1 a s
  | .mul a, s => mulX1 a s
  | .save a, s => saveX1 a s
  | .halt a, s => endX1 a s

/-- X1 of whatever word `IR` holds; the table is exhaustive over the sixteen opcodes (42_control_cycle.md R140). -/
def microX1 (s : State) : Result :=
  match decode s.ir with
  | .ok i => microStepWith (executeX1 i) s
  | .error _ => microStepWith invalidX1 s

/-- `PH = X2` with an `IR` that holds no arithmetic instruction: no rule gives a micro-step (42_control_cycle.md R141). -/
def noMicroX2 (s : State) : Result :=
  if s.run = .running then .fault .noSecondExecuteStep else .refused .hostOperationNotAllowed

/-- X2 exists only after an X1 of ADD, SUB, DIV or MUL; the operation is selected by `IR` (42_control_cycle.md R141). -/
def microX2 (s : State) : Result :=
  match decode s.ir with
  | .ok (.add _) => microStepWith addX2 s
  | .ok (.sub _) => microStepWith subX2 s
  | .ok (.div _) => microStepWith divX2 s
  | .ok (.mul _) => microStepWith mulX2 s
  | .ok (.save _) => noMicroX2 s
  | .ok (.halt _) => noMicroX2 s
  | .error _ => noMicroX2 s

/-- `MicroStep` (42_control_cycle.md R135, R142): the micro-step named by `PH`. -/
def microStep (s : State) : Result :=
  match s.ph with
  | .f1 => microStepWith fetchA s
  | .f2 => microStepWith fetchB s
  | .f3 => microStepWith fetchC s
  | .dec => microStepWith decodeStep s
  | .x1 => microX1 s
  | .x2 => microX2 s

/-- The execute phase of the word in `IR`: the instruction's meaning, or the stop of an invalid opcode
(42_control_cycle.md R140). -/
def cycleFromX1 (s : State) : Result :=
  match decode s.ir with
  | .ok i => exec i s
  | .error _ => execInvalid s

/-- The rest of the cycle from DEC on. -/
def cycleFromDec (s : State) : Result := andThen (microStepWith decodeStep s) cycleFromX1

/-- The rest of the cycle from F3 on. -/
def cycleFromF3 (s : State) : Result := andThen (microStepWith fetchC s) cycleFromDec

/-- The rest of the cycle from F2 on. -/
def cycleFromF2 (s : State) : Result := andThen (microStepWith fetchB s) cycleFromF3

/-- The whole cycle, F1 to the last execute micro-step. -/
def cycleFromF1 (s : State) : Result := andThen (microStepWith fetchA s) cycleFromF2

/-- The instruction cycle from whatever micro-step comes next to its end or to a stop (42_control_cycle.md R142).
One step of the model is one such cycle: log entry 1. -/
def cycle (s : State) : Result :=
  match s.ph with
  | .f1 => cycleFromF1 s
  | .f2 => cycleFromF2 s
  | .f3 => cycleFromF3 s
  | .dec => cycleFromDec s
  | .x1 => cycleFromX1 s
  | .x2 => microX2 s

end Sys2Proof.Machine
end

