-- ==== Sys2Proof/Machine/HostOps.lean ====
section
/-! DEFINITION. The abstract host interface (42_control_cycle.md R135): what the outside can do to the core, and when. -/

namespace Sys2Proof.Machine

/-- The three ways a load can fail (30_encoding.md R71), which are the values `HostSetDisplay` takes. -/
inductive LoadError where
  | invalidInput | negative | overflow
deriving DecidableEq, Repr

/-- A host operation (42_control_cycle.md R135). -/
inductive HostOp where
  | reset
  | write (a : Addr) (v : Word)
  | setDisplay (d : LoadError)
  | start
  | microStep
  | readSnapshot
deriving DecidableEq, Repr

/-- The display value of a load error (30_encoding.md R71). -/
def LoadError.display : LoadError → Display
  | .invalidInput => .invalidInput
  | .negative => .negative
  | .overflow => .overflow

/-- `Reset`, allowed always: every piece of state takes its reset value, the trace is discarded (70_reset_and_hazards.md R185).
It is the only way out of `STOPPED` (42_control_cycle.md R143). -/
def hostReset (_s : State) : Result := .next State.reset

/-- Perform `f` while `RUN = IDLE`; at any other time the operation has no transition (42_control_cycle.md R135). -/
def whileIdle (f : State → State) (s : State) : Result :=
  if s.run = .idle then .next (f s) else .refused .hostOperationNotAllowed

/-- `HostWrite(a, v)` (20_memory.md R55). -/
def hostWrite (a : Addr) (v : Word) (s : State) : Result := whileIdle (fun s => { s with mem := s.mem.write a v }) s

/-- `HostSetDisplay(d)` (42_control_cycle.md R135). -/
def hostSetDisplay (d : LoadError) (s : State) : Result := whileIdle (fun s => { s with disp := d.display }) s

/-- The trace becomes the one-element sequence holding the snapshot of the state now (42_control_cycle.md R135). -/
def seedTrace (s : State) : State := { s with trace := [s.snapshot] }

/-- The effect of `Start`: the run begins and snapshot 0 is taken (42_control_cycle.md R135). -/
def startRun (s : State) : State := seedTrace { s with run := .running }

/-- `Start` (42_control_cycle.md R135). -/
def hostStart (s : State) : Result := whileIdle startRun s

/-- One operation of the host (42_control_cycle.md R135).  Reading the snapshot has no effect; what is read is `State.snapshot`. -/
def hostStep (op : HostOp) (s : State) : Result :=
  match op with
  | .reset => hostReset s
  | .write a v => hostWrite a v s
  | .setDisplay d => hostSetDisplay d s
  | .start => hostStart s
  | .microStep => microStep s
  | .readSnapshot => .next s

/-- A sequence of host operations, ending at the first that has no transition. -/
def hostSteps : List HostOp → State → Result
  | [], s => .next s
  | op :: ops, s =>
    match hostStep op s with
    | .next t => hostSteps ops t
    | .fault e => .fault e
    | .refused e => .refused e

end Sys2Proof.Machine
end

