-- ==== Sys2Proof/Machine/Step.lean ====
section
/-! DEFINITION. One step of the machine, and the placing of an instruction where the next step fetches. -/

namespace Sys2Proof.Machine

/-- One step: the instruction cycle from the next micro-step to its end, or to a stop (42_control_cycle.md R142).
While `RUN` is not `RUNNING` no micro-step is allowed (R135, R143).  Log entry 1. -/
def step (s : State) : Host.Outcome State Fault Refusal := cycle s

/-- The state with the word `w` in the cell `PC` names and the run going at F1.
From `IDLE` this is `HostWrite` and `Start` (70_reset_and_hazards.md R188): log entry 11. -/
def State.withFetchWord (s : State) (nbits w : Nat) : State :=
  let s1 := { s with mem := s.mem.write s.pc (BitVec.ofNat 8 (w % 2 ^ nbits)), ph := .f1, cause := .none }
  match s.run with
  | .idle => startRun s1
  | .running => s1
  | .stopped => { s1 with run := .running }

end Sys2Proof.Machine
end

