-- ==== Sys2Proof/Machine/Loader.lean ====
section
/-! DEFINITION. The loader, which is the core's assembler (30_encoding.md R70 to R75).  Token texts are lists of characters. -/

namespace Sys2Proof.Machine

/-- A numeric literal: the digits before and after the point (30_encoding.md R70). -/
structure Literal where
  intDigits : List Nat
  fracDigits : List Nat
deriving DecidableEq, Repr

/-- A token the loader accepts: an operator or word, with its opcode, or a literal (30_encoding.md R70). -/
inductive LoaderToken where
  | operation (op : Opcode)
  | literal (l : Literal)
deriving DecidableEq, Repr

/-- The value of a decimal digit, `none` for any other character. -/
def digitValue (c : Char) : Option Nat :=
  if 48 ≤ c.toNat ∧ c.toNat ≤ 57 then some (c.toNat - 48) else none

/-- The digits a text begins with, and the rest. -/
def spanDigits : Text → List Nat × Text
  | [] => ([], [])
  | c :: cs =>
    match digitValue c with
    | some d => (d :: (spanDigits cs).1, (spanDigits cs).2)
    | none => ([], c :: cs)

/-- The literal a whole text is: one or more digits, optionally `.` and one or more digits (30_encoding.md R70). -/
def parseLiteral (t : Text) : Option Literal :=
  match spanDigits t with
  | ([], _) => none
  | (ds, []) => some ⟨ds, []⟩
  | (ds, c :: rest) =>
    if c = '.' then
      match spanDigits rest with
      | ([], _) => none
      | (fs, []) => some ⟨ds, fs⟩
      | (_, _ :: _) => none
    else none

/-- The natural number a list of decimal digits denotes. -/
def digitsValue (ds : List Nat) : Nat := ds.foldl (fun n d => 10 * n + d) 0

/-- The literal's number is `literalNum / literalDen`. -/
def literalNum (l : Literal) : Nat := digitsValue (l.intDigits ++ l.fracDigits)

/-- The power of ten below the literal's digits. -/
def literalDen (l : Literal) : Nat := 10 ^ l.fracDigits.length

/-- `enc(x)` of a literal `x`: the rounded code of its value (30_encoding.md R72). -/
def literalCode (l : Literal) : Nat := enc (literalNum l) (literalDen l)

/-- The opcode of an operator symbol or of the words SAVE and END (30_encoding.md R72). -/
def operationToken (t : Text) : Option Opcode :=
  if t = ['+'] then some 0b0000#4
  else if t = ['-'] then some 0b0001#4
  else if t = ['/'] then some 0b0010#4
  else if t = ['*'] then some 0b0011#4
  else if t = ['S', 'A', 'V', 'E'] then some 0b0100#4
  else if t = ['E', 'N', 'D'] then some 0b0101#4
  else none

/-- A literal with a leading `-` (30_encoding.md R70). -/
def isNegativeLiteral (t : Text) : Bool :=
  match t with
  | [] => false
  | c :: rest => c = '-' && (parseLiteral rest).isSome

/-- The three tests of one token, in their order (30_encoding.md R71). -/
def checkToken (t : Text) : Except LoadError LoaderToken :=
  match operationToken t with
  | some op => .ok (.operation op)
  | none =>
    match parseLiteral t with
    | some l => if literalCode l > Config.maxCode then .error .overflow else .ok (.literal l)
    | none => if isNegativeLiteral t then .error .negative else .error .invalidInput

/-- The tokens in order; the first that fails decides (30_encoding.md R71). -/
def checkTokens : List Text → Except LoadError (List LoaderToken)
  | [] => .ok []
  | t :: ts =>
    match checkToken t with
    | .error e => .error e
    | .ok k =>
      match checkTokens ts with
      | .error e => .error e
      | .ok ks => .ok (k :: ks)

/-- Is the token an operator or word? -/
def LoaderToken.isOperation : LoaderToken → Bool
  | .operation _ => true
  | .literal _ => false

/-- `k`, the number of opcode tokens (30_encoding.md R73). -/
def operationCount (ks : List LoaderToken) : Nat := ks.countP LoaderToken.isOperation

/-- All opcode tokens stand before all literals (30_encoding.md R74). -/
def operationsFirst : List LoaderToken → Bool
  | [] => true
  | .operation _ :: ks => operationsFirst ks
  | .literal _ :: ks => ks.all fun k => !k.isOperation

/-- The bounds within which a load is defined (30_encoding.md R74). -/
def loadDefined (ks : List LoaderToken) : Bool :=
  operationsFirst ks && decide (ks.length ≤ Config.nCells) && decide (operationCount ks ≤ Config.maxOpcodeTokens)

/-- The word the loader writes for the token in place `i` of a list with `k` opcode tokens (30_encoding.md R72, R73). -/
def tokenWord (k i : Nat) : LoaderToken → Word
  | .operation op => instrWord op (BitVec.ofNat 4 (k + i))
  | .literal l => BitVec.ofNat 8 (literalCode l)

/-- Write the words of the tokens into consecutive cells from cell `i` on (30_encoding.md R73). -/
def writeTokens (k : Nat) : Nat → List LoaderToken → Memory → Memory
  | _, [], m => m
  | i, t :: ts, m => writeTokens k (i + 1) ts (m.write (BitVec.ofNat 4 i) (tokenWord k i t))

/-- A failed load: the display takes the error value and the trace is snapshot 0 alone
(30_encoding.md R71, 70_reset_and_hazards.md R188, 10_state.md R28).  Log entry 3. -/
def failLoad (e : LoadError) (s : State) : Result :=
  match hostSetDisplay e s with
  | .next t => .next (seedTrace t)
  | .fault r => .fault r
  | .refused r => .refused r

/-- Load a token list (30_encoding.md R71 to R75), while `RUN = IDLE` (20_memory.md R55).
The tokens are checked before the bounds of R74 are: log entry 13. -/
def load (ts : List Text) (s : State) : Result :=
  match checkTokens ts with
  | .error e => failLoad e s
  | .ok ks =>
    if loadDefined ks then whileIdle (fun s => { s with mem := writeTokens (operationCount ks) 0 ks s.mem }) s
    else .refused .loadNotDefined

/-- Load, and start the run unless the load failed; a failed load shows its error and does not start the core
(70_reset_and_hazards.md R188). -/
def loadAndStart (ts : List Text) (s : State) : Result :=
  match checkTokens ts with
  | .error e => failLoad e s
  | .ok _ =>
    match load ts s with
    | .next t => hostStart t
    | .fault r => .fault r
    | .refused r => .refused r

end Sys2Proof.Machine
end

