-- ==== Sys2Proof/Machine/Tokenizer.lean ====
section
/-! DEFINITION. The expression tokenizer (30_encoding.md R76 to R78), and the boot of a run from an expression text
(70_reset_and_hazards.md R188). -/

namespace Sys2Proof.Machine

/-- Where the scanner stands: outside a number, in its integer digits, just after a point that follows them, or in its fraction
digits.  The characters read so far are kept. -/
inductive Scan where
  | outside
  | inInt (digits : Text)
  | afterPoint (digits : Text)
  | inFrac (digits fraction : Text)
deriving DecidableEq, Repr

/-- Is the character one of the four operators? -/
def isOperator (c : Char) : Bool := c = '+' || c = '-' || c = '*' || c = '/'

/-- The number that ends where the scanner stands, if it is in one; a point without a digit after it is not part of it
(30_encoding.md R76, log entry 14). -/
def Scan.pending : Scan → List Text
  | .outside => []
  | .inInt ds => [ds]
  | .afterPoint ds => [ds]
  | .inFrac ds fs => [ds ++ '.' :: fs]

/-- The scanner after one more character, which either extends the number it stands in or ends it. -/
def Scan.next (st : Scan) (c : Char) : Scan :=
  match st, (digitValue c).isSome with
  | .outside, true => .inInt [c]
  | .outside, false => .outside
  | .inInt ds, true => .inInt (ds ++ [c])
  | .inInt ds, false => if c = '.' then .afterPoint ds else .outside
  | .afterPoint ds, true => .inFrac ds [c]
  | .afterPoint _, false => .outside
  | .inFrac ds fs, true => .inFrac ds (fs ++ [c])
  | .inFrac _ _, false => .outside

/-- All numeric substrings, in scan order, each a maximal run of the literal grammar (30_encoding.md R76). -/
def numbersFrom (st : Scan) : Text → List Text
  | [] => st.pending
  | c :: cs =>
    match st.next c with
    | .outside => st.pending ++ numbersFrom .outside cs
    | .inInt ds => numbersFrom (.inInt ds) cs
    | .afterPoint ds => numbersFrom (.afterPoint ds) cs
    | .inFrac ds fs => numbersFrom (.inFrac ds fs) cs

/-- The numeric substrings of a text (30_encoding.md R76). -/
def numbers (t : Text) : List Text := numbersFrom .outside t

/-- The operator characters of a text, in scan order, each a token; a `-` is always an operator (30_encoding.md R76). -/
def operators (t : Text) : List Text := (t.filter isOperator).map fun c => [c]

/-- The implicit leading plus (30_encoding.md R77): prepended unless the first operator is `-` and there are exactly as many
operators as numbers. -/
def withLeadingPlus (ops nums : List Text) : List Text :=
  if ops.head? = some ['-'] ∧ ops.length = nums.length then ops else ['+'] :: ops

/-- The token list of an expression text (30_encoding.md R78). -/
def tokenize (t : Text) : List Text :=
  withLeadingPlus (operators t) (numbers t) ++ [['S', 'A', 'V', 'E'], ['E', 'N', 'D']] ++ numbers t

/-- Boot: a fresh core, the tokenized text loaded, and the run started unless the load failed (70_reset_and_hazards.md R188). -/
def boot (t : Text) : Result := loadAndStart (tokenize t) State.reset

end Sys2Proof.Machine
end

