-- ==== Sys2Proof/Safety.lean ====
section
/-! DEFINITION. What claims are stated in: the invariant of the machine, the outcomes of an instruction, the ends of a run, and
the values data words stand for. -/

namespace Sys2Proof.Safety

open Sys2Proof.Machine

/-- The opcodes of ADD, SUB, DIV and MUL (42_control_cycle.md R140). -/
def arithmeticOpcode (op : Opcode) : Bool := decide (op.toNat < 4)

/-- A cause is recorded exactly when the run has stopped (10_state.md R20, R21, 60_exceptions.md R160). -/
abbrev causeAgrees (s : State) : Prop := s.run = .stopped ↔ s.cause ≠ .none

/-- What `PH` says about the registers (42_control_cycle.md R136 to R141): an idle core is at F1; F2 and F3 work on the
instruction `PC` names; DEC, X1 and X2 come after `PC` was incremented without a wrap; from X1 on `IR` and the symbol are those
of `IBR`; X2 belongs to an arithmetic instruction. -/
abbrev phaseAgrees (s : State) : Prop :=
  (s.run = .idle → s.ph = .f1) ∧
  (s.ph = .f2 ∨ s.ph = .f3 → s.mar = s.pc) ∧
  (s.ph = .f3 → s.mem.read s.mar = some s.ibr) ∧
  (s.ph = .dec ∨ s.ph = .x1 ∨ s.ph = .x2 → s.mar.toNat + 1 = s.pc.toNat) ∧
  (s.ph = .x1 ∨ s.ph = .x2 → s.ir = s.ibr ∧ s.sym = symbolOf (opcodeField s.ir)) ∧
  (s.ph = .x2 → arithmeticOpcode (opcodeField s.ir) = true)

/-- When the lights are on (10_state.md R25): the operand's three lights between X1 and X2; the lit cell and its wires between F2
and F3; `LIT_PC` between F3 and DEC; `LIT_IBR` between F2 and DEC; `LIT_AC` only before F1; SAVE's two wires once SAVE has
stopped the run; and the pairs that are set together and never cleared. -/
abbrev lightsAgree (s : State) : Prop :=
  (s.flags.aluOn = true ↔ s.ph = .x2 ∧ s.run = .running) ∧
  s.flags.litRe = s.flags.aluOn ∧ s.flags.wMbrAlu = s.flags.aluOn ∧
  (s.memLit = if s.ph = .f3 then some s.mar else none) ∧
  s.flags.wMarMem = s.memLit.isSome ∧ s.flags.wMbrIbr = s.memLit.isSome ∧
  s.flags.wMemMbr = (s.memLit.isSome || s.flags.aluOn) ∧
  (s.flags.litPc = true ↔ s.ph = .dec) ∧
  (s.flags.litIbr = true ↔ s.ph = .f3 ∨ s.ph = .dec) ∧
  (s.flags.litAc = true → s.ph = .f1) ∧
  (s.flags.wAcAlu = true ↔ s.cause = .save) ∧ s.flags.wAluMbr = s.flags.wAcAlu ∧
  s.flags.wPcMar = s.flags.litMar ∧ s.flags.wIbrIr = s.flags.litIr

/-- The trace shows the present: once a run has begun its last snapshot is that of the state now (42_control_cycle.md R144). -/
abbrev traceAgrees (s : State) : Prop := s.run ≠ .idle → s.trace.getLast? = some s.snapshot

/-- The invariant of the machine. -/
structure MachineInvariant (s : State) : Prop where
  memWf : s.mem.wf
  cause : causeAgrees s
  phase : phaseAgrees s
  lights : lightsAgree s
  trace : traceAgrees s

/-- The state after a successful arithmetic instruction with operand `b` and result code `r`, everything named
(40_alu_arithmetic.md R98, R104, R105). -/
structure ArithSucceeds (s t : State) (b : Word) (r : Nat) : Prop where
  ac : t.ac.toNat = r
  re : t.re = b
  ph : t.ph = .f1
  run : t.run = .running
  flags : t.flags = { s.flags with wMemMbr := false, wMbrAlu := false, litRe := false, aluOn := false, wAluAc := true,
                                   litAc := true }
  trace : ∃ x1, t.trace = s.trace ++ [x1, t.snapshot]
  pc : t.pc = s.pc
  mar : t.mar = s.mar
  ibr : t.ibr = s.ibr
  ir : t.ir = s.ir
  mem : t.mem = s.mem
  cause : t.cause = s.cause
  disp : t.disp = s.disp
  sym : t.sym = s.sym
  memLit : t.memLit = s.memLit

/-- The state after an arithmetic instruction with operand `b` whose ALU operation failed, everything named
(40_alu_arithmetic.md R98, R104, R105). -/
structure ArithFails (s t : State) (b : Word) (c : Cause) (d : Display) : Prop where
  ac : t.ac = s.ac
  re : t.re = b
  ph : t.ph = .x2
  run : t.run = .stopped
  cause : t.cause = c
  disp : t.disp = d
  flags : t.flags = { s.flags with wMemMbr := false, wMbrAlu := false, litRe := false, aluOn := false, wAluAc := true }
  trace : ∃ x1, t.trace = s.trace ++ [x1, t.snapshot]
  pc : t.pc = s.pc
  mar : t.mar = s.mar
  ibr : t.ibr = s.ibr
  ir : t.ir = s.ir
  mem : t.mem = s.mem
  sym : t.sym = s.sym
  memLit : t.memLit = s.memLit

/-- `t` is `s` stopped with cause `c` and one snapshot more; nothing else differs (60_exceptions.md R163). -/
def StopsUnchanged (s t : State) (c : Cause) : Prop :=
  t = { s with run := .stopped, cause := c, trace := s.trace ++ [s.snapshot] }

/-- The ends of a run that are the source's own (60_exceptions.md R160: causes 1 to 6). -/
def ownCause (c : Cause) : Bool :=
  c = .save || c = .halt || c = .overflow || c = .underflow || c = .divideByZero || c = .invalidOpcode

/-- The cell `n` holds an arithmetic instruction whose operand cell is not `EMPTY` (70_reset_and_hazards.md R189, points 3, 4). -/
def arithmeticCell (m : Memory) (n : Nat) : Bool :=
  match m.read (BitVec.ofNat 4 n) with
  | none => false
  | some w => arithmeticOpcode (opcodeField w) && (m.read (addrField w)).isSome

/-- The cell `n` holds a word that ends the run in X1: SAVE, END or an invalid opcode (42_control_cycle.md R140). -/
def endingCell (m : Memory) (n : Nat) : Bool :=
  match m.read (BitVec.ofNat 4 n) with
  | none => false
  | some w => !arithmeticOpcode (opcodeField w)

/-- From the cell `first` on, arithmetic instructions with readable operands stand in consecutive cells up to an ending word in
the cell `last`, which is `1110` or lower (70_reset_and_hazards.md R189). -/
abbrev runsToOwnEnd (m : Memory) (first last : Nat) : Prop :=
  first ≤ last ∧ last < 15 ∧ (∀ n < last, first ≤ n → arithmeticCell m n = true) ∧ endingCell m last = true

/-- `k` micro-steps, ending early when the run stops or a micro-step has no next state (42_control_cycle.md R135). -/
def microSteps : Nat → State → Result
  | 0, s => .next s
  | k + 1, s => andThen (microStep s) (microSteps k)

/-- The state without its indicator flags, its lit cell and its trace (10_state.md R26, R28). -/
def withoutLights (s : State) : State := { s with flags := Flags.clear, memLit := none, trace := [] }

/-- The state without its trace (10_state.md R28). -/
def withoutTrace (s : State) : State := { s with trace := [] }

/-- The state without the registers whose reset value NC does not give, and without what shows them (10_state.md R29). -/
def withoutInstructionRegisters (s : State) : State := { s with ibr := 0, ir := 0, re := 0, sym := .none, trace := [] }

/-- The same view of whatever a step answers. -/
def viewed (f : State → State) : Result → Result
  | .next s => .next (f s)
  | .fault e => .fault e
  | .refused e => .refused e

/-- The ten decimal digits, each in its place. -/
def decimalDigits : Text := ['0', '1', '2', '3', '4', '5', '6', '7', '8', '9']

/-- One or more decimal digits (30_encoding.md R70). -/
abbrev isNumeral (t : Text) : Prop := t ≠ [] ∧ t.all (fun c => c ∈ decimalDigits) = true

/-- The literal grammar, without a minus: a numeral, optionally a point and a numeral after it (30_encoding.md R70). -/
abbrev isLiteralText (t : Text) : Prop :=
  isNumeral t ∨ ∃ n < t.length, isNumeral (t.take n) ∧ t[n]? = some '.' ∧ isNumeral (t.drop (n + 1))

/-- No literal is longer than `lit` and begins the text `lit ++ rest`: the run is maximal (30_encoding.md R76). -/
abbrev cannotBeExtended (lit rest : Text) : Prop := ∀ n < rest.length, ¬isLiteralText (lit ++ rest.take (n + 1))

/-- The text of a list of digits. -/
def digitText (ds : List (Fin 10)) : Text := ds.map fun d : Fin 10 => decimalDigits.getD d.val '0'

/-- The number a list of digits denotes, the first digit the most significant. -/
def numeralValue (ds : List (Fin 10)) : ℕ := Nat.ofDigits 10 (ds.reverse.map Fin.val)

/-- The rational number a data word stands for (30_encoding.md R65). -/
def val (w : Word) : ℚ := (w.toNat : ℚ) / 2

/-- `enc(q) = floor(2q + 1/2)` (30_encoding.md R66). -/
def encQ (q : ℚ) : ℕ := ⌊2 * q + 1 / 2⌋₊

end Sys2Proof.Safety
end

