-- ==== Sys2Proof/Certificates/Slice0/Obligations.lean ====
section
/-! DEFINITION. The statements for the provers.  `OBLIGATIONS.json` lists them with the rules they rest on. -/

open Sys2Proof Sys2Proof.Machine Sys2Proof.Safety

/-! ## Encoding -/

/-- Words written out from the encodings of the spec decode to what they stand for (30_encoding.md R60 to R62;
95_test_vectors.md Part 3). -/
def Obligations.WrittenWordsDecode : Prop :=
  decode 0b00000100#8 = .ok (.add 0b0100#4) ∧ decode 0b00010110#8 = .ok (.sub 0b0110#4) ∧
  decode 0b00100101#8 = .ok (.div 0b0101#4) ∧ decode 0b00110101#8 = .ok (.mul 0b0101#4) ∧
  decode 0b01000110#8 = .ok (.save 0b0110#4) ∧ decode 0b01010111#8 = .ok (.halt 0b0111#4) ∧
  decode 0b01100000#8 = .error (.invalidOpcode 0b0110#4) ∧ decode 0b11111111#8 = .error (.invalidOpcode 0b1111#4)

/-- Decoding and encoding agree in both directions, over every instruction and every word, and the words the decoder rejects are
exactly those with an opcode from `0110` on (30_encoding.md R60 to R63). -/
def Obligations.DecodeAndEncodeAgree : Prop :=
  (∀ i : Instr, i.wf = true → decode (encode i) = .ok i) ∧
  (∀ (w : Word) (i : Instr), decode w = .ok i → encode i = w) ∧
  (∀ w : Word, (∃ e, decode w = .error e) ↔ 6 ≤ (w.extractLsb' 4 4).toNat)

/-! ## Memory -/

/-- `MemWrite` sets its cell and keeps every other; SAVE uses it with the address field of its word and `AC`, and the snapshot
SAVE appends already shows the new content; `HostWrite` uses it in `IDLE` (20_memory.md R43). -/
def Obligations.MemWriteSetsOneCell : Prop :=
  (∀ (m : Memory) (a : Addr) (v : Word), (m.write a v).read a = some v ∧ ∀ b, b ≠ a → (m.write a v).read b = m.read b) ∧
  (∀ (s t : State) (a : Addr), s.ph = .x1 → decode s.ir = .ok (.save a) → microStep s = .next t →
    a = s.ir.extractLsb' 0 4 ∧ t.mem = s.mem.write a s.ac ∧ ∃ l x, t.trace = l ++ [x] ∧ x.mem = t.mem) ∧
  (∀ (s : State) (a : Addr) (v : Word), s.run = .idle →
    hostStep (.write a v) s = .next { s with mem := s.mem.write a v })

/-- Memory changes during a run in one place only: X1 of SAVE (20_memory.md R43, R54; 10_state.md R18). -/
def Obligations.OnlySaveChangesMemory : Prop :=
  ∀ s t : State, microStep s = .next t →
    (∃ a, s.ph = .x1 ∧ decode s.ir = .ok (.save a) ∧ t.run = .stopped ∧ ∀ b, b ≠ a → t.mem.read b = s.mem.read b) ∨
    t.mem = s.mem

/-! ## The ALU and the data word -/

/-- `add` (40_alu_arithmetic.md R92): the exact sum is a multiple of one half whose code is `a + b`; above 255 it is OVERFLOW,
otherwise the success `b8(a + b)`; nothing else comes out. -/
def Obligations.AluAddition : Prop :=
  ∀ a b : Word, encQ (val a + val b) = a.toNat + b.toNat ∧
    (255 < a.toNat + b.toNat → aluAdd a b = .overflow) ∧
    (a.toNat + b.toNat ≤ 255 → ∃ r : Word, aluAdd a b = .success r ∧ r.toNat = a.toNat + b.toNat)

/-- `subtract` (40_alu_arithmetic.md R93): a negative exact difference is UNDERFLOW, any other the success `b8(a - b)`, exact;
subtraction never overflows, and the sign of the difference is the sign of the rounded difference. -/
def Obligations.AluSubtraction : Prop :=
  ∀ a b : Word,
    (val a - val b < 0 ↔ a.toNat < b.toNat) ∧ (⌊2 * (val a - val b) + 1 / 2⌋ < 0 ↔ val a - val b < 0) ∧
    (a.toNat < b.toNat → aluSub a b = .underflow) ∧
    (b.toNat ≤ a.toNat → ∃ r : Word, aluSub a b = .success r ∧ r.toNat = a.toNat - b.toNat ∧ val r = val a - val b)

/-- `multiply` and `divide` (40_alu_arithmetic.md R94, R95) in closed form: the boundaries of failure, the rounded results, and
the zero divisor before everything. -/
def Obligations.AluMultiplicationAndDivision : Prop :=
  ∀ a b : Word,
    (511 ≤ a.toNat * b.toNat → aluMul a b = .overflow) ∧
    (a.toNat * b.toNat < 511 → ∃ r : Word, aluMul a b = .success r ∧ r.toNat = (a.toNat * b.toNat + 1) / 2) ∧
    (b = 0b00000000#8 → aluDiv a b = .divideByZero) ∧
    (b = 0b00000001#8 → 128 ≤ a.toNat → aluDiv a b = .overflow) ∧
    (b ≠ 0b00000000#8 → ¬(b = 0b00000001#8 ∧ 128 ≤ a.toNat) →
      ∃ r : Word, aluDiv a b = .success r ∧ r.toNat = (4 * a.toNat + b.toNat) / (2 * b.toNat))

/-- The four operations are one pipeline over the rationals: compute the exact number, encode it rounded, and fail with OVERFLOW
when the code does not fit (40_alu_arithmetic.md R91; the sign of SUB and the zero divisor of DIV are tested first). -/
def Obligations.AluIsTheRoundedPipeline : Prop :=
  ∀ a b : Word,
    aluAdd a b = (if 255 < encQ (val a + val b) then .overflow else .success (BitVec.ofNat 8 (encQ (val a + val b)))) ∧
    aluSub a b = (if val a - val b < 0 then .underflow
      else if 255 < encQ (val a - val b) then .overflow else .success (BitVec.ofNat 8 (encQ (val a - val b)))) ∧
    aluMul a b = (if 255 < encQ (val a * val b) then .overflow else .success (BitVec.ofNat 8 (encQ (val a * val b)))) ∧
    aluDiv a b = (if val b = 0 then .divideByZero
      else if 255 < encQ (val a / val b) then .overflow else .success (BitVec.ofNat 8 (encQ (val a / val b))))

/-- Encoding and decoding a number (30_encoding.md R66, R67): the code of a word's value is the word; the word of a number that
fits stands for a multiple of one half within a quarter of it, a tie going up, and encoding it again changes nothing; the
literal's and the ALU's integer formula is this encoding. -/
def Obligations.EncodingRoundsToTheNearestHalf : Prop :=
  (∀ w : Word, encQ (val w) = w.toNat) ∧
  (∀ q : ℚ, 0 ≤ q → encQ q ≤ 255 → q - 1 / 4 < val (BitVec.ofNat 8 (encQ q)) ∧ val (BitVec.ofNat 8 (encQ q)) ≤ q + 1 / 4 ∧
    encQ (val (BitVec.ofNat 8 (encQ q))) = encQ q) ∧
  (∀ num den : Nat, 0 < den → enc num den = encQ ((num : ℚ) / den))

/-! ## The instructions -/

/-- ADD (40_alu_arithmetic.md R100) runs on every operand: a sum that fits goes to `AC`, one that does not stops the run.  The
indicator flags follow the spec's decisions D10, D12 and D22 (log entries 6, 19). -/
def Obligations.AddExecutes : Prop :=
  ∀ (s : State) (a : Addr) (b : Word), s.run = .running → s.mem.read a = some b →
    (s.ac.toNat + b.toNat ≤ 255 →
      ∃ t, exec (.add a) s = .next t ∧ ArithSucceeds s t b (s.ac.toNat + b.toNat)) ∧
    (255 < s.ac.toNat + b.toNat →
      ∃ t, exec (.add a) s = .next t ∧ ArithFails s t b .overflow .overflow)

/-- SUB (40_alu_arithmetic.md R101) runs on every operand: a difference that is not negative goes to `AC`, a negative one stops
the run.  The indicator flags follow the spec's decisions D10, D12 and D22 (log entries 6, 19). -/
def Obligations.SubExecutes : Prop :=
  ∀ (s : State) (a : Addr) (b : Word), s.run = .running → s.mem.read a = some b →
    (b.toNat ≤ s.ac.toNat →
      ∃ t, exec (.sub a) s = .next t ∧ ArithSucceeds s t b (s.ac.toNat - b.toNat)) ∧
    (s.ac.toNat < b.toNat →
      ∃ t, exec (.sub a) s = .next t ∧ ArithFails s t b .underflow .underflow)

/-- DIV (40_alu_arithmetic.md R102) runs on every operand: the rounded quotient goes to `AC`; a zero operand stops the run with
the display UNDEFINED, whatever `AC` holds; the operand 0.5 under a dividend of 64 or more overflows.  The indicator flags follow
the spec's decisions D10, D12 and D22 (log entries 6, 19). -/
def Obligations.DivExecutes : Prop :=
  ∀ (s : State) (a : Addr) (b : Word), s.run = .running → s.mem.read a = some b →
    (b.toNat ≠ 0 → (4 * s.ac.toNat + b.toNat) / (2 * b.toNat) ≤ 255 →
      ∃ t, exec (.div a) s = .next t ∧ ArithSucceeds s t b ((4 * s.ac.toNat + b.toNat) / (2 * b.toNat))) ∧
    (b.toNat = 0 → ∃ t, exec (.div a) s = .next t ∧ ArithFails s t b .divideByZero .undefined) ∧
    (b.toNat ≠ 0 → 255 < (4 * s.ac.toNat + b.toNat) / (2 * b.toNat) →
      ∃ t, exec (.div a) s = .next t ∧ ArithFails s t b .overflow .overflow)

/-- MUL (40_alu_arithmetic.md R103) runs on every operand: the rounded product goes to `AC`, one that does not fit stops the
run.  The indicator flags follow the spec's decisions D10, D12 and D22 (log entries 6, 19). -/
def Obligations.MulExecutes : Prop :=
  ∀ (s : State) (a : Addr) (b : Word), s.run = .running → s.mem.read a = some b →
    ((s.ac.toNat * b.toNat + 1) / 2 ≤ 255 →
      ∃ t, exec (.mul a) s = .next t ∧ ArithSucceeds s t b ((s.ac.toNat * b.toNat + 1) / 2)) ∧
    (255 < (s.ac.toNat * b.toNat + 1) / 2 →
      ∃ t, exec (.mul a) s = .next t ∧ ArithFails s t b .overflow .overflow)

/-- An arithmetic instruction whose operand cell is `EMPTY` stops the run with EMPTY_READ and changes nothing else
(20_memory.md R44, 40_alu_arithmetic.md R104: the spec's decision D6, log entry 7). -/
def Obligations.EmptyOperandStopsTheRun : Prop :=
  ∀ (s : State) (a : Addr), s.run = .running → s.mem.read a = none →
    ∀ i ∈ [Instr.add a, Instr.sub a, Instr.div a, Instr.mul a],
      ∃ t, exec i s = .next t ∧ StopsUnchanged s t .emptyRead

/-- SAVE (41_store_halt.md R121) runs in every running state: `AC` goes to the named cell and to the display, two wires light,
the run stops, and everything else stays.  `PH` and `CAUSE` are the spec's own bookkeeping (decisions D9, D20). -/
def Obligations.SaveExecutes : Prop :=
  ∀ (s : State) (a : Addr), s.run = .running →
    ∃ t, exec (.save a) s = .next t ∧
      t.mem.read a = some s.ac ∧ (∀ b, b ≠ a → t.mem.read b = s.mem.read b) ∧ t.disp = .value s.ac ∧
      t.run = .stopped ∧ t.cause = .save ∧ t.flags = { s.flags with wAcAlu := true, wAluMbr := true } ∧
      t.ac = s.ac ∧ t.pc = s.pc ∧ t.mar = s.mar ∧ t.ibr = s.ibr ∧ t.ir = s.ir ∧ t.re = s.re ∧ t.sym = s.sym ∧
      t.memLit = s.memLit ∧ t.ph = s.ph ∧ t.trace = s.trace ++ [t.snapshot]

/-- END (41_store_halt.md R123) runs in every running state, whatever its address field: `AC` becomes zero, the run stops, and
everything else stays.  That it leaves one snapshot is the spec's decision D8 (log entry 8). -/
def Obligations.EndExecutes : Prop :=
  ∀ (s : State) (a : Addr), s.run = .running →
    ∃ t, exec (.halt a) s = .next t ∧
      t.ac = 0b00000000#8 ∧ t.run = .stopped ∧ t.cause = .halt ∧
      (∀ b, t.mem.read b = s.mem.read b) ∧ t.disp = s.disp ∧ t.flags = s.flags ∧ t.pc = s.pc ∧ t.mar = s.mar ∧
      t.ibr = s.ibr ∧ t.ir = s.ir ∧ t.re = s.re ∧ t.sym = s.sym ∧ t.memLit = s.memLit ∧ t.ph = s.ph ∧
      t.trace = s.trace ++ [t.snapshot]

/-- `halt()` (41_store_halt.md R122): the accumulator becomes zero; not the display, not memory, nothing else is written. -/
def Obligations.HaltOnlyZeroesTheAccumulator : Prop :=
  ∀ s : State, (haltAlu s).ac = 0b00000000#8 ∧ (haltAlu s).disp = s.disp ∧ (haltAlu s).mem = s.mem ∧
    { haltAlu s with ac := s.ac } = s

/-- A word with an opcode from `0110` on stops the run in X1 with INVALID_OPCODE and changes nothing else (30_encoding.md R62,
41_store_halt.md R124; the cause and the snapshot are the spec's decisions D8 and D9, log entries 8, 16). -/
def Obligations.InvalidOpcodeStopsTheRun : Prop :=
  ∀ s : State, s.run = .running → s.ph = .x1 → 6 ≤ (s.ir.extractLsb' 4 4).toNat →
    ∃ t, step s = .next t ∧ microStep s = .next t ∧ StopsUnchanged s t .invalidOpcode

/-! ## Frames -/

/-- The frame of ADD, SUB, DIV and MUL, which store nothing: every cell reads as before, and the program counter, the fetch and
instruction registers, the symbol, the lit cell and the ten flags they do not name are kept; `RE` is kept or is the operand; the
accumulator is kept unless the run goes on; display and cause are kept while the run goes on (40_alu_arithmetic.md R98, R100 to
R105). -/
def Obligations.ArithmeticFrame : Prop :=
  ∀ (s t : State) (a : Addr), ∀ i ∈ [Instr.add a, Instr.sub a, Instr.div a, Instr.mul a], exec i s = .next t →
    (∀ b, t.mem.read b = s.mem.read b) ∧ t.pc = s.pc ∧ t.mar = s.mar ∧ t.ibr = s.ibr ∧ t.ir = s.ir ∧ t.sym = s.sym ∧
    t.memLit = s.memLit ∧
    (t.re = s.re ∧ s.mem.read a = none ∨ s.mem.read a = some t.re) ∧
    (t.run = .stopped → t.ac = s.ac) ∧ (t.run = .running → t.disp = s.disp ∧ t.cause = s.cause) ∧
    t.flags.litPc = s.flags.litPc ∧ t.flags.litMar = s.flags.litMar ∧ t.flags.litIbr = s.flags.litIbr ∧
    t.flags.litIr = s.flags.litIr ∧ t.flags.wPcMar = s.flags.wPcMar ∧ t.flags.wMarMem = s.flags.wMarMem ∧
    t.flags.wMbrIbr = s.flags.wMbrIbr ∧ t.flags.wIbrIr = s.flags.wIbrIr ∧ t.flags.wAcAlu = s.flags.wAcAlu ∧
    t.flags.wAluMbr = s.flags.wAluMbr ∧
    ∃ new, t.trace = s.trace ++ new

/-- The frame of SAVE and END.  SAVE stores to the cell its address field names and to no other; END stores nothing.  Neither
changes a register but END the accumulator, nor a flag but SAVE its two wires (41_store_halt.md R121, R123). -/
def Obligations.SaveAndEndFrame : Prop :=
  ∀ (s t : State) (a : Addr), ∀ i ∈ [Instr.save a, Instr.halt a], exec i s = .next t →
    (∀ b, (i = .save a → b ≠ a) → t.mem.read b = s.mem.read b) ∧
    (i = .save a → t.ac = s.ac) ∧ (i = .halt a → t.disp = s.disp ∧ t.flags = s.flags) ∧
    t.pc = s.pc ∧ t.mar = s.mar ∧ t.ibr = s.ibr ∧ t.ir = s.ir ∧ t.re = s.re ∧ t.sym = s.sym ∧ t.memLit = s.memLit ∧
    t.ph = s.ph ∧
    { t.flags with wAcAlu := s.flags.wAcAlu, wAluMbr := s.flags.wAluMbr } = s.flags ∧
    ∃ new, t.trace = s.trace ++ new

/-! ## The micro-steps -/

/-- F1 (42_control_cycle.md R136): `PC` goes to `MAR`, two flags light, `LIT_AC` is cleared, F2 comes next; F1 never stops. -/
def Obligations.FetchCopiesPcToMar : Prop :=
  ∀ s : State, s.run = .running → s.ph = .f1 →
    ∃ t, microStep s = .next t ∧ t.run = .running ∧
      t = { s with mar := s.pc, flags := { s.flags with wPcMar := true, litMar := true, litAc := false }, ph := .f2,
                   trace := s.trace ++ [t.snapshot] }

/-- F2 (42_control_cycle.md R137): the cell at `MAR`, whatever it holds, goes to `IBR`; an `EMPTY` cell stops the run and
nothing else changes (20_memory.md R44, the spec's decision D6, log entry 7). -/
def Obligations.FetchReadsTheCellAtMar : Prop :=
  ∀ s : State, s.run = .running → s.ph = .f2 →
    (∀ w, s.mem.read s.mar = some w → ∃ t, microStep s = .next t ∧
      t = { s with ibr := w, memLit := some s.mar, ph := .f3, trace := s.trace ++ [t.snapshot],
                   flags := { s.flags with wMarMem := true, wMemMbr := true, wMbrIbr := true, litIbr := true } }) ∧
    (s.mem.read s.mar = none → ∃ t, microStep s = .next t ∧ StopsUnchanged s t .emptyRead)

/-- F3 (42_control_cycle.md R138): `PC` grows by one; at `1111` the run stops and nothing else changes (the spec's decision D7,
log entry 7). -/
def Obligations.FetchIncrementsPc : Prop :=
  ∀ s : State, s.run = .running → s.ph = .f3 →
    (s.pc ≠ 0b1111#4 → ∃ t, microStep s = .next t ∧ t.pc.toNat = s.pc.toNat + 1 ∧
      t = { s with pc := t.pc, memLit := none, ph := .dec, trace := s.trace ++ [t.snapshot],
                   flags := { s.flags with litPc := true, wMarMem := false, wMemMbr := false, wMbrIbr := false } }) ∧
    (s.pc = 0b1111#4 → ∃ t, microStep s = .next t ∧ StopsUnchanged s t .pcWrap)

/-- DEC (42_control_cycle.md R139): `IBR` goes to `IR`, the symbol is that of its opcode, X1 comes next; DEC never stops.  The
symbol of an invalid opcode is the spec's decision D9 (log entry 16). -/
def Obligations.DecodeLoadsIr : Prop :=
  ∀ s : State, s.run = .running → s.ph = .dec →
    ∃ t, microStep s = .next t ∧
      t = { s with ir := s.ibr, sym := t.sym, ph := .x1, trace := s.trace ++ [t.snapshot],
                   flags := { s.flags with wIbrIr := true, litIr := true, litPc := false, litIbr := false } } ∧
      t.sym = [Symbol.plus, .minus, .slash, .star, .save, .halt].getD (s.ibr.extractLsb' 4 4).toNat .none

/-- X1 dispatches on the opcode in `IR`, over all sixteen of them (42_control_cycle.md R140): the operand goes to `RE` and X2
comes next, or the run stops with the cause the table names.  The wires and the lit cell follow the spec's decision D21. -/
def Obligations.ExecuteDispatchesOnTheOpcode : Prop :=
  ∀ s : State, s.run = .running → s.ph = .x1 → ∃ t, microStep s = .next t ∧
    (((s.ir.extractLsb' 4 4).toNat < 4 ∧ ∃ b, s.mem.read (s.ir.extractLsb' 0 4) = some b ∧
        t = { s with re := b, ph := .x2, trace := s.trace ++ [t.snapshot],
                     flags := { s.flags with wMemMbr := true, wMbrAlu := true, litRe := true, aluOn := true } }) ∨
     ((s.ir.extractLsb' 4 4).toNat < 4 ∧ s.mem.read (s.ir.extractLsb' 0 4) = none ∧ StopsUnchanged s t .emptyRead) ∨
     ((s.ir.extractLsb' 4 4).toNat = 4 ∧ t.run = .stopped ∧ t.cause = .save ∧
        t.mem.read (s.ir.extractLsb' 0 4) = some s.ac) ∨
     ((s.ir.extractLsb' 4 4).toNat = 5 ∧ t.run = .stopped ∧ t.cause = .halt ∧ t.ac = 0b00000000#8) ∨
     (6 ≤ (s.ir.extractLsb' 4 4).toNat ∧ StopsUnchanged s t .invalidOpcode))

/-- X2 applies to `AC` and `RE` the operation the opcode in `IR` selects: on success the next cycle begins, on failure the run
stops (42_control_cycle.md R141, 40_alu_arithmetic.md R105); with no arithmetic opcode in `IR` there is no X2 (log entry 2). -/
def Obligations.SecondExecuteStepAppliesTheAlu : Prop :=
  ∀ s : State, s.run = .running → s.ph = .x2 →
    (∀ op, [aluAdd, aluSub, aluDiv, aluMul][(s.ir.extractLsb' 4 4).toNat]? = some op →
      ∃ t, microStep s = .next t ∧
        ((∃ r, op s.ac s.re = .success r ∧ t.ac = r ∧ t.ph = .f1 ∧ t.run = .running ∧ t.disp = s.disp) ∨
         (op s.ac s.re = .overflow ∧ t.ac = s.ac ∧ t.run = .stopped ∧ t.cause = .overflow ∧ t.disp = .overflow) ∨
         (op s.ac s.re = .underflow ∧ t.ac = s.ac ∧ t.run = .stopped ∧ t.cause = .underflow ∧ t.disp = .underflow) ∨
         (op s.ac s.re = .divideByZero ∧ t.ac = s.ac ∧ t.run = .stopped ∧ t.cause = .divideByZero ∧ t.disp = .undefined))) ∧
    (4 ≤ (s.ir.extractLsb' 4 4).toNat → microStep s = .fault .noSecondExecuteStep)

/-- Every register has its one writer (10_state.md R10, R12 to R16): in any micro-step `MAR` changes only in F1, `IBR` in F2,
`PC` in F3, `IR` and `SYM` in DEC, `RE` in X1, and `AC` in X2 or in an X1 that ends the run. -/
def Obligations.EveryRegisterHasItsWriter : Prop :=
  ∀ s t : State, microStep s = .next t →
    (s.ph ≠ .f1 → t.mar = s.mar) ∧ (s.ph ≠ .f2 → t.ibr = s.ibr) ∧ (s.ph ≠ .f3 → t.pc = s.pc) ∧
    (s.ph ≠ .dec → t.ir = s.ir ∧ t.sym = s.sym) ∧ (s.ph ≠ .x1 → t.re = s.re) ∧
    (t.ac = s.ac ∨ (s.ph = .x2 ∧ t.run = .running) ∨
      (s.ph = .x1 ∧ t.ac = 0b00000000#8 ∧ t.run = .stopped ∧ t.cause = .halt)) ∧
    (t.disp = s.disp ∨ (s.ph = .x1 ∧ t.cause = .save ∧ t.disp = .value s.ac) ∨ (s.ph = .x2 ∧ t.run = .stopped))

/-- No control transfer (42_control_cycle.md R146): no instruction writes `PC`; the only change is the `+1` of F3, once per
cycle whatever the instruction and its outcome; execution starts at cell `0000` and goes straight up until a stop.  A cycle that
stops before F3 is done leaves `PC` as it was: the two stops there, EMPTY_READ and PC_WRAP, are the spec's decisions D6 and D7
(log entry 7), and a step being a cycle is the model's choice (log entry 1). -/
def Obligations.PcOnlyGrowsByOnePerCycle : Prop :=
  State.reset.pc = 0b0000#4 ∧
  (∀ (i : Instr) (s t : State), exec i s = .next t → t.pc = s.pc) ∧
  (∀ s t : State, microStep s = .next t → t.pc = s.pc ∨ (s.ph = .f3 ∧ t.pc.toNat = s.pc.toNat + 1)) ∧
  (∀ s t : State, s.ph = .f1 → step s = .next t →
    t.pc.toNat = s.pc.toNat + 1 ∨ (t.pc = s.pc ∧ t.run = .stopped ∧ (t.cause = .emptyRead ∨ t.cause = .pcWrap)))

/-- The order of the micro-steps (42_control_cycle.md R142): while the run goes on they follow F1, F2, F3, DEC, X1, and after
an X1 that goes on X2 and then F1; only a successful arithmetic instruction goes on past its execute phase. -/
def Obligations.MicroStepsFollowInOrder : Prop :=
  ∀ s t : State, microStep s = .next t → t.run = .running →
    (s.ph, t.ph) ∈ [(Phase.f1, Phase.f2), (.f2, .f3), (.f3, .dec), (.dec, .x1), (.x1, .x2), (.x2, .f1)] ∧
    (s.ph = .x1 ∨ s.ph = .x2 → (s.ir.extractLsb' 4 4).toNat < 4)

/-! ## Stops -/

/-- Stop entry (60_exceptions.md R163): a stopping micro-step sets `RUN` and `CAUSE`, performs exactly the writes its rule lists
(SAVE its store, display and two wires; END the clearing of `AC`; an ALU failure five flags and the display; any other nothing),
keeps `PH`, and saves nothing anywhere.  That END, INVALID_OPCODE, EMPTY_READ and PC_WRAP append a snapshot is the spec's decision
D8 (log entry 8); EMPTY_READ and PC_WRAP themselves are its decisions D6 and D7 (log entry 7), `CAUSE` and `PH` D9 and D20 (log
entries 4, 16). -/
def Obligations.StopEntryWritesWhatItsRuleLists : Prop :=
  ∀ s t : State, microStep s = .next t → t.run = .stopped →
    t.ph = s.ph ∧ t.cause ≠ .none ∧
    (t.cause = .save → t = { s with run := .stopped, cause := .save, mem := s.mem.write (s.ir.extractLsb' 0 4) s.ac, disp := .value s.ac, flags := { s.flags with wAcAlu := true, wAluMbr := true }, trace := s.trace ++ [t.snapshot] }) ∧
    (t.cause = .halt → t = { s with run := .stopped, cause := .halt, ac := 0b00000000#8, trace := s.trace ++ [t.snapshot] }) ∧
    (t.cause = .overflow ∨ t.cause = .underflow ∨ t.cause = .divideByZero →
      t = { s with run := .stopped, cause := t.cause, disp := t.disp, trace := s.trace ++ [t.snapshot], flags := { s.flags with wMemMbr := false, wMbrAlu := false, litRe := false, aluOn := false, wAluAc := true } } ∧
      (t.cause, t.disp) ∈ [(Cause.overflow, Display.overflow), (.underflow, .underflow), (.divideByZero, .undefined)]) ∧
    (t.cause = .invalidOpcode ∨ t.cause = .emptyRead ∨ t.cause = .pcWrap → StopsUnchanged s t t.cause)

/-- Where each cause can be raised (60_exceptions.md R160, R166; causes 7 and 8 and the codes are the spec's decisions D6, D7
and D9, log entries 7, 16). -/
def Obligations.EveryCauseHasItsPlace : Prop :=
  ∀ s t : State, microStep s = .next t → t.run = .stopped →
    (t.cause = .save ↔ s.ph = .x1 ∧ (s.ir.extractLsb' 4 4).toNat = 4) ∧
    (t.cause = .halt ↔ s.ph = .x1 ∧ (s.ir.extractLsb' 4 4).toNat = 5) ∧
    (t.cause = .invalidOpcode ↔ s.ph = .x1 ∧ 6 ≤ (s.ir.extractLsb' 4 4).toNat) ∧
    (t.cause = .emptyRead ↔ s.ph = .f2 ∨ (s.ph = .x1 ∧ (s.ir.extractLsb' 4 4).toNat < 4)) ∧
    (t.cause = .pcWrap ↔ s.ph = .f3) ∧
    (t.cause = .divideByZero ↔ s.ph = .x2 ∧ (s.ir.extractLsb' 4 4).toNat = 2 ∧ s.re = 0b00000000#8) ∧
    (t.cause = .underflow ↔ s.ph = .x2 ∧ (s.ir.extractLsb' 4 4).toNat = 1) ∧
    (t.cause = .overflow ↔ s.ph = .x2 ∧ (s.ir.extractLsb' 4 4).toNat ≠ 1 ∧
      ¬((s.ir.extractLsb' 4 4).toNat = 2 ∧ s.re = 0b00000000#8))

/-- `STOPPED` is final: no micro-step, no start, no host write has a transition there; reading the snapshot changes nothing and
only `Reset` leaves it (42_control_cycle.md R143, 60_exceptions.md R165; the refusals are the spec's decisions D11 and D17, log
entry 10). -/
def Obligations.StoppedIsFinal : Prop :=
  ∀ s : State, s.run = .stopped →
    step s = .refused .hostOperationNotAllowed ∧
    ∀ op t, hostStep op s = .next t → (op = .readSnapshot ∧ t = s) ∨ (op = .reset ∧ t = State.reset)

/-! ## The host's operations and reset -/

/-- What reset leaves (10_state.md R29): `AC`, `PC`, `MAR` at zero and every cell `EMPTY`, which the source gives; the other
values are the spec's decisions D4, D9 and D20 (log entry 4).  `Reset` leads there from every state, and discards the trace. -/
def Obligations.ResetLeavesTheListedValues : Prop :=
  ∀ s : State, ∃ t, hostStep .reset s = .next t ∧ t = State.reset ∧
    t.ac = 0b00000000#8 ∧ t.pc = 0b0000#4 ∧ t.mar = 0b0000#4 ∧ (∀ a, t.mem.read a = none) ∧
    t.ibr = 0b00000000#8 ∧ t.ir = 0b00000000#8 ∧ t.re = 0b00000000#8 ∧ t.ph = .f1 ∧ t.run = .idle ∧ t.cause = .none ∧
    t.disp = .blank ∧ t.sym = .none ∧ t.memLit = none ∧ t.trace = [] ∧
    t.flags = ⟨false, false, false, false, false, false, false, false, false, false, false, false, false, false, false, false⟩

/-- The host interface (42_control_cycle.md R135, decision D11, log entry 10): `Reset` and the reading of the snapshot, which
changes nothing, are always allowed; what the other operations do while the core is idle; that `MicroStep` is the micro-step; that
the running core admits only `MicroStep`, `Reset` and the reading of the snapshot, and the idle core no micro-step. -/
def Obligations.HostOperationsHaveTheirTimes : Prop :=
  ∀ s : State,
    hostStep .readSnapshot s = .next s ∧ hostStep .reset s = .next State.reset ∧ hostStep .microStep s = microStep s ∧
    (s.run = .idle →
      (∀ a v, hostStep (.write a v) s = .next { s with mem := s.mem.write a v }) ∧
      (∀ d : LoadError, hostStep (.setDisplay d) s = .next { s with disp := d.display }) ∧
      hostStep .start s = .next { s with run := .running, trace := [s.snapshot] } ∧
      step s = .refused .hostOperationNotAllowed ∧
      (hostStep .microStep s = .refused .hostOperationNotAllowed)) ∧
    (s.run = .running → ∀ op t, hostStep op s = .next t →
      op = .microStep ∨ (op = .reset ∧ t = State.reset) ∨ (op = .readSnapshot ∧ t = s))

/-! ## Steps and runs -/

/-- A step from F1 with an instruction word at the cell `PC` names, below `1111`, is the meaning of that instruction at the
fetched and decoded state, which is `s` with `MAR`, `IBR`, `IR`, `PC`, `SYM` and four snapshots set by F1, F2, F3 and DEC; a word
that is no instruction stops the run there. -/
def Obligations.StepRunsTheDecodedInstruction : Prop :=
  ∀ (s : State) (w : Word), s.run = .running → s.ph = .f1 → s.mem.read s.pc = some w → s.pc ≠ 0b1111#4 →
    ∃ u : State, u.ir = w ∧ u.ibr = w ∧ u.mar = s.pc ∧ u.pc = s.pc + 1 ∧ u.ac = s.ac ∧ u.re = s.re ∧ u.mem = s.mem ∧
      u.run = .running ∧ u.ph = .x1 ∧ u.cause = s.cause ∧ u.disp = s.disp ∧ u.sym = symbolOf (w.extractLsb' 4 4) ∧
      u.memLit = none ∧
      u.flags = { s.flags with wPcMar := true, litMar := true, litAc := false, litIbr := false, litPc := false, wMarMem := false, wMemMbr := false, wMbrIbr := false, wIbrIr := true, litIr := true } ∧
      (∃ x1 x2 x3, u.trace = s.trace ++ [x1, x2, x3, u.snapshot]) ∧
      (∀ i, decode w = .ok i → step s = exec i u) ∧
      ((∃ e, decode w = .error e) → ∃ t, step s = .next t ∧ StopsUnchanged u t .invalidOpcode)

/-- A step from F1 that cannot fetch stops in F2 on an `EMPTY` cell and in F3 on `PC = 1111`, whatever that cell holds
(42_control_cycle.md R137, R138, 60_exceptions.md R166; the spec's decisions D6 and D7, log entry 7). -/
def Obligations.StepStopsWhereNothingCanBeFetched : Prop :=
  ∀ s : State, s.run = .running → s.ph = .f1 →
    (s.mem.read s.pc = none → ∃ t, step s = .next t ∧ t.run = .stopped ∧ t.cause = .emptyRead ∧ t.ph = .f2 ∧
      t.mar = s.pc ∧ t.pc = s.pc ∧ t.ac = s.ac ∧ t.ibr = s.ibr ∧ t.ir = s.ir ∧ t.re = s.re ∧ t.mem = s.mem ∧
      t.disp = s.disp ∧ t.sym = s.sym) ∧
    (∀ w, s.pc = 0b1111#4 → s.mem.read s.pc = some w → ∃ t, step s = .next t ∧ t.run = .stopped ∧ t.cause = .pcWrap ∧
      t.ph = .f3 ∧ t.pc = 0b1111#4 ∧ t.mar = s.pc ∧ t.ibr = w ∧ t.ac = s.ac ∧ t.ir = s.ir ∧ t.re = s.re ∧
      t.mem = s.mem ∧ t.disp = s.disp ∧ t.sym = s.sym)

/-- One step of the model is a whole number of the spec's micro-steps, from one to six: it has the answer of `k` micro-steps, it
ends at F1 or stopped, no earlier micro-step of it reaches such an end, and each leaves one snapshot (42_control_cycle.md R142,
R144; log entry 1). -/
def Obligations.StepIsItsMicroSteps : Prop :=
  ∀ s : State, s.run = .running → ∃ k, 1 ≤ k ∧ k ≤ 6 ∧ step s = microSteps k s ∧
    (∀ t, step s = .next t → (t.run = .stopped ∨ (t.run = .running ∧ t.ph = .f1)) ∧
      t.trace.length = s.trace.length + k) ∧
    (∀ j u, 1 ≤ j → j < k → microSteps j s = .next u → u.run = .running ∧ u.ph ≠ .f1)

/-- The snapshots of a cycle (42_control_cycle.md R145): six for an arithmetic instruction that reaches X2, five for any other
word and for an empty operand cell, two for a cycle stopped in F2, three for one stopped in F3 (the counts of END, of an invalid
opcode and of the two added stops are the spec's decision D8, log entry 8). -/
def Obligations.SnapshotsOfACycle : Prop :=
  ∀ s : State, s.run = .running → s.ph = .f1 → ∃ t, step s = .next t ∧
    t.trace.length = s.trace.length +
      (match s.mem.read s.pc with
       | none => 2
       | some w =>
         if s.pc = 0b1111#4 then 3
         else if (w.extractLsb' 4 4).toNat < 4 ∧ s.mem.read (w.extractLsb' 0 4) ≠ none then 6
         else 5)

/-- Every run ends (42_control_cycle.md R147): from any running state at F1 the machine stops within `16 - PC` cycles and
`6 · (15 - PC) + 3` micro-steps, 93 from cell `0000`; it never faults and never refuses on the way. -/
def Obligations.EveryRunEnds : Prop :=
  ∀ s : State, s.run = .running → s.ph = .f1 →
    ∃ n t, 1 ≤ n ∧ n ≤ 16 - s.pc.toNat ∧ Host.Core.run Sys2Proof.core n s = .next t ∧ t.run = .stopped ∧
      t.trace.length ≤ s.trace.length + (6 * (15 - s.pc.toNat) + 3)

/-- A run over consecutive arithmetic instructions with readable operands, up to a SAVE, an END or an invalid word in cell `1110`
or lower, ends by one of the source's own causes, never by EMPTY_READ or PC_WRAP (70_reset_and_hazards.md R189). -/
def Obligations.WellPlacedWordsEndByAnOwnCause : Prop :=
  ∀ (s : State) (last : Nat), s.run = .running → s.ph = .f1 → runsToOwnEnd s.mem s.pc.toNat last →
    ∃ n t, n ≤ last + 1 - s.pc.toNat ∧ Host.Core.run Sys2Proof.core n s = .next t ∧ t.run = .stopped ∧
      ownCause t.cause = true

/-! ## Invariants -/

/-- The invariant holds right after reset. -/
def Obligations.ResetMeetsTheInvariant : Prop := MachineInvariant State.reset

/-- Every micro-step keeps the invariant. -/
def Obligations.MicroStepKeepsTheInvariant : Prop := ∀ s t : State, MachineInvariant s → microStep s = .next t → MachineInvariant t

/-- Every step keeps the invariant: the memory's form, `RUN` and `CAUSE`, what `PH` says about the registers, which lights are on,
and that the trace ends in the present. -/
def Obligations.StepKeepsTheInvariant : Prop := ∀ s t : State, MachineInvariant s → step s = .next t → MachineInvariant t

/-- Every host operation, a load, a load with the start of the run, and the boot of an expression keep the invariant. -/
def Obligations.HostAndLoaderKeepTheInvariant : Prop :=
  (∀ (op : HostOp) (s t : State), MachineInvariant s → hostStep op s = .next t → MachineInvariant t) ∧
  (∀ (ts : List Text) (s t : State), MachineInvariant s → load ts s = .next t → MachineInvariant t) ∧
  (∀ (ts : List Text) (s t : State), MachineInvariant s → loadAndStart ts s = .next t → MachineInvariant t) ∧
  (∀ (text : Text) (t : State), boot text = .next t → MachineInvariant t)

/-- A running machine that meets the invariant always has a next state: the model's one fault is out of reach, and so is every
refusal (42_control_cycle.md R141, R142). -/
def Obligations.ARunningMachineAlwaysSteps : Prop :=
  ∀ s : State, MachineInvariant s → s.run = .running → (∃ t, step s = .next t) ∧ ∃ t, microStep s = .next t

/-! ## What does not matter -/

/-- The indicator flags, the lit cell and the trace drive nothing: what a step does to everything else is the same whatever they
are (10_state.md R26, R28; decision D10, log entries 3, 6); and no flag or lit cell depends on the trace. -/
def Obligations.LightsAndTraceDriveNothing : Prop :=
  (∀ s s' : State, withoutLights s = withoutLights s' → viewed withoutLights (step s) = viewed withoutLights (step s')) ∧
  (∀ s s' : State, withoutTrace s = withoutTrace s' → viewed withoutTrace (step s) = viewed withoutTrace (step s'))

/-- The values `IBR`, `IR`, `RE` and `SYM` hold when a cycle begins reach nothing else: what a step from F1 does to the rest of the
state is the same whatever they are (10_state.md R29: no data-path rule reads them before the cycle writes them). -/
def Obligations.OldInstructionRegistersDoNotMatter : Prop :=
  ∀ s s' : State, s.ph = .f1 → withoutInstructionRegisters s = withoutInstructionRegisters s' →
    viewed withoutInstructionRegisters (step s) = viewed withoutInstructionRegisters (step s')

/-! ## Display and toolchain -/

/-- The texts of the display (10_state.md R23) and, for a value without a half, its decimal numeral (30_encoding.md R80); the text
of a value with a half is a free value (decision D13, log entry 12), and this says nothing about it. -/
def Obligations.DisplayTexts : Prop :=
  Display.text .overflow = "OVERFLOW".toList ∧ Display.text .underflow = "UNDERFLOW".toList ∧
  Display.text .undefined = "UNDEFINED".toList ∧ Display.text .invalidInput = "INVALID INPUT".toList ∧
  Display.text .negative = "NEGATIVE NUMBERS ARE NOT ALLOWED".toList ∧ Display.text .blank = [] ∧
  ∀ w : Word, w.getLsbD 0 = false → Display.text (.value w) = Nat.toDigits 10 (w.extractLsb' 1 7).toNat

/-- The layout of a load (30_encoding.md R72, R73; decision D14, log entry 13): with `k` opcode tokens, cell `i` holds the opcode
of token `i` and the address `k + i`, or the code of its literal; all other state is kept.  That the other cells keep what they
hold, from every idle state, is the model's choice (log entry 22): the spec says they stay `EMPTY`, as they do from reset. -/
def Obligations.LoadLaysOutTheTokens : Prop :=
  ∀ (ts : List Text) (ks : List LoaderToken) (s : State), s.run = .idle → checkTokens ts = .ok ks → loadDefined ks = true →
    ∃ t, load ts s = .next t ∧
      (∀ i op, ks[i]? = some (.operation op) →
        t.mem.read (BitVec.ofNat 4 i) = some (op ++ BitVec.ofNat 4 (operationCount ks + i))) ∧
      (∀ i l, ks[i]? = some (.literal l) → ∃ w : Word, t.mem.read (BitVec.ofNat 4 i) = some w ∧
        (w.toNat : ℤ) = ⌊2 * ((literalNum l : ℚ) / literalDen l) + 1 / 2⌋) ∧
      (∀ a : Addr, ks.length ≤ a.toNat → t.mem.read a = s.mem.read a) ∧
      { t with mem := s.mem } = s

/-- A rejected load (30_encoding.md R71; decision D15, log entry 13): the first token that fails decides the error shown; no cell
is written, the core is not started, and the trace is snapshot 0 alone.  That this holds for lists outside the bounds of R74 too,
the error shown before the list is refused, is the model's choice (log entry 13). -/
def Obligations.RejectedLoadWritesNothing : Prop :=
  ∀ (good rest : List Text) (bad : Text) (e : LoadError) (s : State), s.run = .idle →
    (∀ g ∈ good, ∃ k, checkToken g = .ok k) → checkToken bad = .error e →
    ∃ t, loadAndStart (good ++ bad :: rest) s = .next t ∧ load (good ++ bad :: rest) s = .next t ∧
      t.disp = e.display ∧ t.mem = s.mem ∧ t.run = .idle ∧ t.trace = [t.snapshot] ∧
      { t with disp := s.disp, trace := s.trace } = s

/-- The three tests of a token (30_encoding.md R70, R71, R72; decision D15, log entry 13): the six operation tokens and the opcode
of each, and no other; an accepted literal fits a data word, and only the code decides; a minus before a literal is NEGATIVE, whatever its size. -/
def Obligations.TokenTests : Prop :=
  (∀ t op, checkToken t = .ok (.operation op) ↔
    (t, op) ∈ [(['+'], 0b0000#4), (['-'], 0b0001#4), (['/'], 0b0010#4), (['*'], 0b0011#4), (['S', 'A', 'V', 'E'], 0b0100#4),
      (['E', 'N', 'D'], 0b0101#4)]) ∧
  (∀ t l, parseLiteral t = some l →
    (literalCode l ≤ 255 → checkToken t = .ok (.literal l)) ∧ (255 < literalCode l → checkToken t = .error .overflow) ∧
    checkToken ('-' :: t) = .error .negative) ∧
  (∀ t, parseLiteral t = none → (∀ r, t = '-' :: r → parseLiteral r = none) →
    t ∉ [['+'], ['-'], ['/'], ['*'], ['S', 'A', 'V', 'E'], ['E', 'N', 'D']] → checkToken t = .error .invalidInput)

/-- The tokenizer (30_encoding.md R76 to R78; decision D16, log entry 14): the operators in scan order, after an implicit `+`
unless the first is `-` and the counts agree, then SAVE and END, then the numbers in scan order.  The numbers of a text are its
maximal runs of the literal grammar: a character that is no digit begins none, and a literal that the text after it cannot extend
is one, followed by the numbers of that text.  A tokenized text is never rejected as INVALID_INPUT or NEGATIVE. -/
def Obligations.TokenizerOutput : Prop :=
  (∀ text : Text,
    (∃ ops, tokenize text = ops ++ ["SAVE".toList, "END".toList] ++ numbers text ∧
      ops = withLeadingPlus (operators text) (numbers text) ∧
      (ops = (text.filter fun c => c ∈ ['+', '-', '*', '/']).map (fun c => [c]) ∧ ops.head? = some ['-'] ∧
          ops.length = (numbers text).length ∨
       ∃ found, ops = ['+'] :: found ∧ found = (text.filter fun c => c ∈ ['+', '-', '*', '/']).map (fun c => [c]) ∧
          ¬(found.head? = some ['-'] ∧ found.length = (numbers text).length))) ∧
    (∀ n ∈ numbers text, isLiteralText n ∧ ∃ l, parseLiteral n = some l) ∧
    (∀ e, checkTokens (tokenize text) = .error e → e = .overflow)) ∧
  numbers [] = [] ∧
  (∀ (c : Char) (rest : Text), c ∉ decimalDigits → numbers (c :: rest) = numbers rest) ∧
  (∀ lit rest : Text, isLiteralText lit → cannotBeExtended lit rest → numbers (lit ++ rest) = lit :: numbers rest)

/-- A tokenized text with as many operators, the implicit one counted, as numbers, at most six of each and none too large, boots
into a running core whose memory runs to one of the source's own ends (30_encoding.md R78, 70_reset_and_hazards.md R189). -/
def Obligations.BootedExpressionEndsByAnOwnCause : Prop :=
  ∀ text : Text, (withLeadingPlus (operators text) (numbers text)).length = (numbers text).length →
    (numbers text).length ≤ 6 → (∀ n ∈ numbers text, ∀ l, parseLiteral n = some l → literalCode l ≤ 255) →
    ∃ s, boot text = .next s ∧ s.run = .running ∧ s.ph = .f1 ∧ s.pc = 0b0000#4 ∧ s.ac = 0b00000000#8 ∧
      runsToOwnEnd s.mem 0 (numbers text).length ∧
      ∃ n t, Host.Core.run Sys2Proof.core n s = .next t ∧ t.run = .stopped ∧ ownCause t.cause = true

/-- The literals (30_encoding.md R66, R70, R72; decisions D1, D2, D15, log entries 5, 13): exactly the texts of the grammar are
literals; the digits before and after the point have their decimal values, and the code is that of the number rounded. -/
def Obligations.LiteralsAreReadAsNumbers : Prop :=
  (∀ t : Text, (∃ l, parseLiteral t = some l) ↔ isLiteralText t) ∧
  ∀ ds : List (Fin 10), ds ≠ [] →
    (∃ l, parseLiteral (digitText ds) = some l ∧ (literalNum l : ℚ) / literalDen l = numeralValue ds ∧
      literalCode l = encQ (numeralValue ds)) ∧
    ∀ fs : List (Fin 10), fs ≠ [] →
      ∃ l, parseLiteral (digitText ds ++ '.' :: digitText fs) = some l ∧
        (literalNum l : ℚ) / literalDen l = numeralValue ds + (numeralValue fs : ℚ) / 10 ^ fs.length ∧
        literalCode l = encQ (numeralValue ds + (numeralValue fs : ℚ) / 10 ^ fs.length)

/-! ## The snapshot -/

/-- The snapshot (10_state.md R27) shows the display, all sixteen cells, the lit cell, the six registers, the symbol and the
sixteen flags, and nothing of `PH`, `RUN`, `CAUSE` and the trace; two states with equal snapshots agree in all but those.  That it
shows the value of `RE` is the spec's own addition (decision D5, log entry 9). -/
def Obligations.SnapshotShowsTheState : Prop :=
  ∀ s : State,
    s.snapshot.disp = s.disp ∧ (∀ a, s.snapshot.mem.read a = s.mem.read a) ∧ s.snapshot.memLit = s.memLit ∧
    s.snapshot.pc = s.pc ∧ s.snapshot.mar = s.mar ∧ s.snapshot.ir = s.ir ∧ s.snapshot.ibr = s.ibr ∧ s.snapshot.ac = s.ac ∧
    s.snapshot.re = s.re ∧ s.snapshot.sym = s.sym ∧ s.snapshot.flags = s.flags ∧
    (∀ ph run cause trace, State.snapshot { s with ph := ph, run := run, cause := cause, trace := trace } = s.snapshot) ∧
    ∀ t : State, t.snapshot = s.snapshot → t = { s with ph := t.ph, run := t.run, cause := t.cause, trace := t.trace }
end

