-- ==== Sys2Proof/Laws/Memory.lean ====
section
/-! SUPPORT. Reads and writes of memory (20_memory.md R42, R43), and its canonical form. -/

namespace Sys2Proof.Machine

/-- The word just listed is the one found. -/
theorem entry_insert_same (m : Memory) (n : Nat) (v : Word) : (m.insert n v).entry n = some v := by
  induction m with
  | nil => simp [Memory.insert, Memory.entry]
  | cons c rest ih =>
    unfold Memory.insert
    split
    · simp [Memory.entry]
    · split
      · simp [Memory.entry]
      · simp [Memory.entry, *]

/-- Listing a word for one cell leaves what is found for every other cell. -/
theorem entry_insert_other (m : Memory) {n k : Nat} (v : Word) (h : k ≠ n) : (m.insert n v).entry k = m.entry k := by
  induction m with
  | nil => simp [Memory.insert, Memory.entry, Ne.symm h]
  | cons c rest ih =>
    unfold Memory.insert
    split
    · simp [Memory.entry, Ne.symm h]
    · split
      next hc => subst hc; simp [Memory.entry, Ne.symm h]
      next => simp [Memory.entry, ih]

/-- The cells listed after a write are the written one and ones listed before. -/
theorem mem_insert {m : Memory} {n : Nat} {v : Word} {c : Host.Cell} (h : c ∈ m.insert n v) : c = (n, v) ∨ c ∈ m := by
  induction m with
  | nil => simpa [Memory.insert] using h
  | cons d rest ih =>
    unfold Memory.insert at h
    split at h
    · simpa using h
    · split at h
      · rcases List.mem_cons.1 h with h | h
        · exact .inl h
        · exact .inr (List.mem_cons_of_mem _ h)
      · rcases List.mem_cons.1 h with h | h
        · exact .inr (h ▸ List.mem_cons_self)
        · exact (ih h).imp_right (List.mem_cons_of_mem _)

/-- A write keeps the indices strictly rising. -/
theorem pairwise_insert (m : Memory) (n : Nat) (v : Word) (h : m.Pairwise fun c d => c.1 < d.1) :
    (m.insert n v).Pairwise fun c d => c.1 < d.1 := by
  induction m with
  | nil => simp [Memory.insert]
  | cons c rest ih =>
    have hc := (List.pairwise_cons.1 h).1
    have hrest := (List.pairwise_cons.1 h).2
    unfold Memory.insert
    split
    next hlt =>
      refine List.pairwise_cons.2 ⟨fun d hd => ?_, h⟩
      rcases List.mem_cons.1 hd with rfl | hd
      · exact hlt
      · exact Nat.lt_trans hlt (hc d hd)
    next hlt =>
      split
      next heq => exact List.pairwise_cons.2 ⟨fun d hd => heq ▸ hc d hd, hrest⟩
      next hne =>
        refine List.pairwise_cons.2 ⟨fun d hd => ?_, ih hrest⟩
        rcases mem_insert hd with rfl | hd
        · show c.1 < n
          omega
        · exact hc d hd

/-- The one memory operation that changes memory keeps its canonical form (20_memory.md R43). -/
theorem write_wf {m : Memory} (h : m.wf) (a : Addr) (v : Word) : (m.write a v).wf := by
  refine ⟨pairwise_insert m a.toNat v h.1, fun c hc => ?_⟩
  rcases mem_insert hc with rfl | hc
  · exact a.isLt
  · exact h.2 c hc

/-- A read of the cell just written gives the word written. -/
@[simp] theorem read_write_same (m : Memory) (a : Addr) (v : Word) : (m.write a v).read a = some v :=
  entry_insert_same m a.toNat v

/-- A write leaves every other cell. -/
theorem read_write_other (m : Memory) {a b : Addr} (v : Word) (h : b ≠ a) : (m.write a v).read b = m.read b :=
  entry_insert_other m v fun he => h (BitVec.eq_of_toNat_eq he)

/-- Every cell of the empty memory is `EMPTY`. -/
@[simp] theorem read_nil (a : Addr) : Memory.read [] a = none := rfl

/-- The reset memory has the canonical form. -/
theorem reset_mem_wf : State.reset.mem.wf := by decide

end Sys2Proof.Machine
end

