-- ==== Sys2Proof/Laws/Flags.lean ====
section
/-! SUPPORT. What each micro-step leaves in each indicator flag (10_state.md R25, R26). -/

namespace Sys2Proof.Machine

@[simp] theorem flagsF1_litPc (f : Flags) : (flagsF1 f).litPc = f.litPc := rfl
@[simp] theorem flagsF1_litMar (f : Flags) : (flagsF1 f).litMar = true := rfl
@[simp] theorem flagsF1_litIbr (f : Flags) : (flagsF1 f).litIbr = f.litIbr := rfl
@[simp] theorem flagsF1_litIr (f : Flags) : (flagsF1 f).litIr = f.litIr := rfl
@[simp] theorem flagsF1_litAc (f : Flags) : (flagsF1 f).litAc = false := rfl
@[simp] theorem flagsF1_litRe (f : Flags) : (flagsF1 f).litRe = f.litRe := rfl
@[simp] theorem flagsF1_aluOn (f : Flags) : (flagsF1 f).aluOn = f.aluOn := rfl
@[simp] theorem flagsF1_wPcMar (f : Flags) : (flagsF1 f).wPcMar = true := rfl
@[simp] theorem flagsF1_wMarMem (f : Flags) : (flagsF1 f).wMarMem = f.wMarMem := rfl
@[simp] theorem flagsF1_wMemMbr (f : Flags) : (flagsF1 f).wMemMbr = f.wMemMbr := rfl
@[simp] theorem flagsF1_wMbrIbr (f : Flags) : (flagsF1 f).wMbrIbr = f.wMbrIbr := rfl
@[simp] theorem flagsF1_wIbrIr (f : Flags) : (flagsF1 f).wIbrIr = f.wIbrIr := rfl
@[simp] theorem flagsF1_wMbrAlu (f : Flags) : (flagsF1 f).wMbrAlu = f.wMbrAlu := rfl
@[simp] theorem flagsF1_wAcAlu (f : Flags) : (flagsF1 f).wAcAlu = f.wAcAlu := rfl
@[simp] theorem flagsF1_wAluAc (f : Flags) : (flagsF1 f).wAluAc = f.wAluAc := rfl
@[simp] theorem flagsF1_wAluMbr (f : Flags) : (flagsF1 f).wAluMbr = f.wAluMbr := rfl

@[simp] theorem flagsF2_litPc (f : Flags) : (flagsF2 f).litPc = f.litPc := rfl
@[simp] theorem flagsF2_litMar (f : Flags) : (flagsF2 f).litMar = f.litMar := rfl
@[simp] theorem flagsF2_litIbr (f : Flags) : (flagsF2 f).litIbr = true := rfl
@[simp] theorem flagsF2_litIr (f : Flags) : (flagsF2 f).litIr = f.litIr := rfl
@[simp] theorem flagsF2_litAc (f : Flags) : (flagsF2 f).litAc = f.litAc := rfl
@[simp] theorem flagsF2_litRe (f : Flags) : (flagsF2 f).litRe = f.litRe := rfl
@[simp] theorem flagsF2_aluOn (f : Flags) : (flagsF2 f).aluOn = f.aluOn := rfl
@[simp] theorem flagsF2_wPcMar (f : Flags) : (flagsF2 f).wPcMar = f.wPcMar := rfl
@[simp] theorem flagsF2_wMarMem (f : Flags) : (flagsF2 f).wMarMem = true := rfl
@[simp] theorem flagsF2_wMemMbr (f : Flags) : (flagsF2 f).wMemMbr = true := rfl
@[simp] theorem flagsF2_wMbrIbr (f : Flags) : (flagsF2 f).wMbrIbr = true := rfl
@[simp] theorem flagsF2_wIbrIr (f : Flags) : (flagsF2 f).wIbrIr = f.wIbrIr := rfl
@[simp] theorem flagsF2_wMbrAlu (f : Flags) : (flagsF2 f).wMbrAlu = f.wMbrAlu := rfl
@[simp] theorem flagsF2_wAcAlu (f : Flags) : (flagsF2 f).wAcAlu = f.wAcAlu := rfl
@[simp] theorem flagsF2_wAluAc (f : Flags) : (flagsF2 f).wAluAc = f.wAluAc := rfl
@[simp] theorem flagsF2_wAluMbr (f : Flags) : (flagsF2 f).wAluMbr = f.wAluMbr := rfl

@[simp] theorem flagsF3_litPc (f : Flags) : (flagsF3 f).litPc = true := rfl
@[simp] theorem flagsF3_litMar (f : Flags) : (flagsF3 f).litMar = f.litMar := rfl
@[simp] theorem flagsF3_litIbr (f : Flags) : (flagsF3 f).litIbr = f.litIbr := rfl
@[simp] theorem flagsF3_litIr (f : Flags) : (flagsF3 f).litIr = f.litIr := rfl
@[simp] theorem flagsF3_litAc (f : Flags) : (flagsF3 f).litAc = f.litAc := rfl
@[simp] theorem flagsF3_litRe (f : Flags) : (flagsF3 f).litRe = f.litRe := rfl
@[simp] theorem flagsF3_aluOn (f : Flags) : (flagsF3 f).aluOn = f.aluOn := rfl
@[simp] theorem flagsF3_wPcMar (f : Flags) : (flagsF3 f).wPcMar = f.wPcMar := rfl
@[simp] theorem flagsF3_wMarMem (f : Flags) : (flagsF3 f).wMarMem = false := rfl
@[simp] theorem flagsF3_wMemMbr (f : Flags) : (flagsF3 f).wMemMbr = false := rfl
@[simp] theorem flagsF3_wMbrIbr (f : Flags) : (flagsF3 f).wMbrIbr = false := rfl
@[simp] theorem flagsF3_wIbrIr (f : Flags) : (flagsF3 f).wIbrIr = f.wIbrIr := rfl
@[simp] theorem flagsF3_wMbrAlu (f : Flags) : (flagsF3 f).wMbrAlu = f.wMbrAlu := rfl
@[simp] theorem flagsF3_wAcAlu (f : Flags) : (flagsF3 f).wAcAlu = f.wAcAlu := rfl
@[simp] theorem flagsF3_wAluAc (f : Flags) : (flagsF3 f).wAluAc = f.wAluAc := rfl
@[simp] theorem flagsF3_wAluMbr (f : Flags) : (flagsF3 f).wAluMbr = f.wAluMbr := rfl

@[simp] theorem flagsDec_litPc (f : Flags) : (flagsDec f).litPc = false := rfl
@[simp] theorem flagsDec_litMar (f : Flags) : (flagsDec f).litMar = f.litMar := rfl
@[simp] theorem flagsDec_litIbr (f : Flags) : (flagsDec f).litIbr = false := rfl
@[simp] theorem flagsDec_litIr (f : Flags) : (flagsDec f).litIr = true := rfl
@[simp] theorem flagsDec_litAc (f : Flags) : (flagsDec f).litAc = f.litAc := rfl
@[simp] theorem flagsDec_litRe (f : Flags) : (flagsDec f).litRe = f.litRe := rfl
@[simp] theorem flagsDec_aluOn (f : Flags) : (flagsDec f).aluOn = f.aluOn := rfl
@[simp] theorem flagsDec_wPcMar (f : Flags) : (flagsDec f).wPcMar = f.wPcMar := rfl
@[simp] theorem flagsDec_wMarMem (f : Flags) : (flagsDec f).wMarMem = f.wMarMem := rfl
@[simp] theorem flagsDec_wMemMbr (f : Flags) : (flagsDec f).wMemMbr = f.wMemMbr := rfl
@[simp] theorem flagsDec_wMbrIbr (f : Flags) : (flagsDec f).wMbrIbr = f.wMbrIbr := rfl
@[simp] theorem flagsDec_wIbrIr (f : Flags) : (flagsDec f).wIbrIr = true := rfl
@[simp] theorem flagsDec_wMbrAlu (f : Flags) : (flagsDec f).wMbrAlu = f.wMbrAlu := rfl
@[simp] theorem flagsDec_wAcAlu (f : Flags) : (flagsDec f).wAcAlu = f.wAcAlu := rfl
@[simp] theorem flagsDec_wAluAc (f : Flags) : (flagsDec f).wAluAc = f.wAluAc := rfl
@[simp] theorem flagsDec_wAluMbr (f : Flags) : (flagsDec f).wAluMbr = f.wAluMbr := rfl

@[simp] theorem flagsX1Arith_litPc (f : Flags) : (flagsX1Arith f).litPc = f.litPc := rfl
@[simp] theorem flagsX1Arith_litMar (f : Flags) : (flagsX1Arith f).litMar = f.litMar := rfl
@[simp] theorem flagsX1Arith_litIbr (f : Flags) : (flagsX1Arith f).litIbr = f.litIbr := rfl
@[simp] theorem flagsX1Arith_litIr (f : Flags) : (flagsX1Arith f).litIr = f.litIr := rfl
@[simp] theorem flagsX1Arith_litAc (f : Flags) : (flagsX1Arith f).litAc = f.litAc := rfl
@[simp] theorem flagsX1Arith_litRe (f : Flags) : (flagsX1Arith f).litRe = true := rfl
@[simp] theorem flagsX1Arith_aluOn (f : Flags) : (flagsX1Arith f).aluOn = true := rfl
@[simp] theorem flagsX1Arith_wPcMar (f : Flags) : (flagsX1Arith f).wPcMar = f.wPcMar := rfl
@[simp] theorem flagsX1Arith_wMarMem (f : Flags) : (flagsX1Arith f).wMarMem = f.wMarMem := rfl
@[simp] theorem flagsX1Arith_wMemMbr (f : Flags) : (flagsX1Arith f).wMemMbr = true := rfl
@[simp] theorem flagsX1Arith_wMbrIbr (f : Flags) : (flagsX1Arith f).wMbrIbr = f.wMbrIbr := rfl
@[simp] theorem flagsX1Arith_wIbrIr (f : Flags) : (flagsX1Arith f).wIbrIr = f.wIbrIr := rfl
@[simp] theorem flagsX1Arith_wMbrAlu (f : Flags) : (flagsX1Arith f).wMbrAlu = true := rfl
@[simp] theorem flagsX1Arith_wAcAlu (f : Flags) : (flagsX1Arith f).wAcAlu = f.wAcAlu := rfl
@[simp] theorem flagsX1Arith_wAluAc (f : Flags) : (flagsX1Arith f).wAluAc = f.wAluAc := rfl
@[simp] theorem flagsX1Arith_wAluMbr (f : Flags) : (flagsX1Arith f).wAluMbr = f.wAluMbr := rfl

@[simp] theorem flagsX2_litPc (f : Flags) : (flagsX2 f).litPc = f.litPc := rfl
@[simp] theorem flagsX2_litMar (f : Flags) : (flagsX2 f).litMar = f.litMar := rfl
@[simp] theorem flagsX2_litIbr (f : Flags) : (flagsX2 f).litIbr = f.litIbr := rfl
@[simp] theorem flagsX2_litIr (f : Flags) : (flagsX2 f).litIr = f.litIr := rfl
@[simp] theorem flagsX2_litAc (f : Flags) : (flagsX2 f).litAc = f.litAc := rfl
@[simp] theorem flagsX2_litRe (f : Flags) : (flagsX2 f).litRe = false := rfl
@[simp] theorem flagsX2_aluOn (f : Flags) : (flagsX2 f).aluOn = false := rfl
@[simp] theorem flagsX2_wPcMar (f : Flags) : (flagsX2 f).wPcMar = f.wPcMar := rfl
@[simp] theorem flagsX2_wMarMem (f : Flags) : (flagsX2 f).wMarMem = f.wMarMem := rfl
@[simp] theorem flagsX2_wMemMbr (f : Flags) : (flagsX2 f).wMemMbr = false := rfl
@[simp] theorem flagsX2_wMbrIbr (f : Flags) : (flagsX2 f).wMbrIbr = f.wMbrIbr := rfl
@[simp] theorem flagsX2_wIbrIr (f : Flags) : (flagsX2 f).wIbrIr = f.wIbrIr := rfl
@[simp] theorem flagsX2_wMbrAlu (f : Flags) : (flagsX2 f).wMbrAlu = false := rfl
@[simp] theorem flagsX2_wAcAlu (f : Flags) : (flagsX2 f).wAcAlu = f.wAcAlu := rfl
@[simp] theorem flagsX2_wAluAc (f : Flags) : (flagsX2 f).wAluAc = true := rfl
@[simp] theorem flagsX2_wAluMbr (f : Flags) : (flagsX2 f).wAluMbr = f.wAluMbr := rfl

@[simp] theorem flagsAluSuccess_litPc (f : Flags) : (flagsAluSuccess f).litPc = f.litPc := rfl
@[simp] theorem flagsAluSuccess_litMar (f : Flags) : (flagsAluSuccess f).litMar = f.litMar := rfl
@[simp] theorem flagsAluSuccess_litIbr (f : Flags) : (flagsAluSuccess f).litIbr = f.litIbr := rfl
@[simp] theorem flagsAluSuccess_litIr (f : Flags) : (flagsAluSuccess f).litIr = f.litIr := rfl
@[simp] theorem flagsAluSuccess_litAc (f : Flags) : (flagsAluSuccess f).litAc = true := rfl
@[simp] theorem flagsAluSuccess_litRe (f : Flags) : (flagsAluSuccess f).litRe = f.litRe := rfl
@[simp] theorem flagsAluSuccess_aluOn (f : Flags) : (flagsAluSuccess f).aluOn = f.aluOn := rfl
@[simp] theorem flagsAluSuccess_wPcMar (f : Flags) : (flagsAluSuccess f).wPcMar = f.wPcMar := rfl
@[simp] theorem flagsAluSuccess_wMarMem (f : Flags) : (flagsAluSuccess f).wMarMem = f.wMarMem := rfl
@[simp] theorem flagsAluSuccess_wMemMbr (f : Flags) : (flagsAluSuccess f).wMemMbr = f.wMemMbr := rfl
@[simp] theorem flagsAluSuccess_wMbrIbr (f : Flags) : (flagsAluSuccess f).wMbrIbr = f.wMbrIbr := rfl
@[simp] theorem flagsAluSuccess_wIbrIr (f : Flags) : (flagsAluSuccess f).wIbrIr = f.wIbrIr := rfl
@[simp] theorem flagsAluSuccess_wMbrAlu (f : Flags) : (flagsAluSuccess f).wMbrAlu = f.wMbrAlu := rfl
@[simp] theorem flagsAluSuccess_wAcAlu (f : Flags) : (flagsAluSuccess f).wAcAlu = f.wAcAlu := rfl
@[simp] theorem flagsAluSuccess_wAluAc (f : Flags) : (flagsAluSuccess f).wAluAc = f.wAluAc := rfl
@[simp] theorem flagsAluSuccess_wAluMbr (f : Flags) : (flagsAluSuccess f).wAluMbr = f.wAluMbr := rfl

@[simp] theorem flagsSave_litPc (f : Flags) : (flagsSave f).litPc = f.litPc := rfl
@[simp] theorem flagsSave_litMar (f : Flags) : (flagsSave f).litMar = f.litMar := rfl
@[simp] theorem flagsSave_litIbr (f : Flags) : (flagsSave f).litIbr = f.litIbr := rfl
@[simp] theorem flagsSave_litIr (f : Flags) : (flagsSave f).litIr = f.litIr := rfl
@[simp] theorem flagsSave_litAc (f : Flags) : (flagsSave f).litAc = f.litAc := rfl
@[simp] theorem flagsSave_litRe (f : Flags) : (flagsSave f).litRe = f.litRe := rfl
@[simp] theorem flagsSave_aluOn (f : Flags) : (flagsSave f).aluOn = f.aluOn := rfl
@[simp] theorem flagsSave_wPcMar (f : Flags) : (flagsSave f).wPcMar = f.wPcMar := rfl
@[simp] theorem flagsSave_wMarMem (f : Flags) : (flagsSave f).wMarMem = f.wMarMem := rfl
@[simp] theorem flagsSave_wMemMbr (f : Flags) : (flagsSave f).wMemMbr = f.wMemMbr := rfl
@[simp] theorem flagsSave_wMbrIbr (f : Flags) : (flagsSave f).wMbrIbr = f.wMbrIbr := rfl
@[simp] theorem flagsSave_wIbrIr (f : Flags) : (flagsSave f).wIbrIr = f.wIbrIr := rfl
@[simp] theorem flagsSave_wMbrAlu (f : Flags) : (flagsSave f).wMbrAlu = f.wMbrAlu := rfl
@[simp] theorem flagsSave_wAcAlu (f : Flags) : (flagsSave f).wAcAlu = true := rfl
@[simp] theorem flagsSave_wAluAc (f : Flags) : (flagsSave f).wAluAc = f.wAluAc := rfl
@[simp] theorem flagsSave_wAluMbr (f : Flags) : (flagsSave f).wAluMbr = true := rfl

end Sys2Proof.Machine
end

