-- ==== Sys2Proof/Laws/State.lean ====
section
/-! SUPPORT. One lemma per field per update of the state: what each shared update leaves in each field. -/

namespace Sys2Proof.Machine

@[simp] theorem record_ac (s : State) : (record s).ac = s.ac := rfl
@[simp] theorem record_pc (s : State) : (record s).pc = s.pc := rfl
@[simp] theorem record_mar (s : State) : (record s).mar = s.mar := rfl
@[simp] theorem record_ibr (s : State) : (record s).ibr = s.ibr := rfl
@[simp] theorem record_ir (s : State) : (record s).ir = s.ir := rfl
@[simp] theorem record_re (s : State) : (record s).re = s.re := rfl
@[simp] theorem record_mem (s : State) : (record s).mem = s.mem := rfl
@[simp] theorem record_ph (s : State) : (record s).ph = s.ph := rfl
@[simp] theorem record_run (s : State) : (record s).run = s.run := rfl
@[simp] theorem record_cause (s : State) : (record s).cause = s.cause := rfl
@[simp] theorem record_disp (s : State) : (record s).disp = s.disp := rfl
@[simp] theorem record_sym (s : State) : (record s).sym = s.sym := rfl
@[simp] theorem record_flags (s : State) : (record s).flags = s.flags := rfl
@[simp] theorem record_memLit (s : State) : (record s).memLit = s.memLit := rfl
@[simp] theorem record_trace (s : State) : (record s).trace = s.trace ++ [s.snapshot] := rfl

@[simp] theorem stop_ac (c : Cause) (s : State) : (stop c s).ac = s.ac := rfl
@[simp] theorem stop_pc (c : Cause) (s : State) : (stop c s).pc = s.pc := rfl
@[simp] theorem stop_mar (c : Cause) (s : State) : (stop c s).mar = s.mar := rfl
@[simp] theorem stop_ibr (c : Cause) (s : State) : (stop c s).ibr = s.ibr := rfl
@[simp] theorem stop_ir (c : Cause) (s : State) : (stop c s).ir = s.ir := rfl
@[simp] theorem stop_re (c : Cause) (s : State) : (stop c s).re = s.re := rfl
@[simp] theorem stop_mem (c : Cause) (s : State) : (stop c s).mem = s.mem := rfl
@[simp] theorem stop_ph (c : Cause) (s : State) : (stop c s).ph = s.ph := rfl
@[simp] theorem stop_run (c : Cause) (s : State) : (stop c s).run = .stopped := rfl
@[simp] theorem stop_cause (c : Cause) (s : State) : (stop c s).cause = c := rfl
@[simp] theorem stop_disp (c : Cause) (s : State) : (stop c s).disp = s.disp := rfl
@[simp] theorem stop_sym (c : Cause) (s : State) : (stop c s).sym = s.sym := rfl
@[simp] theorem stop_flags (c : Cause) (s : State) : (stop c s).flags = s.flags := rfl
@[simp] theorem stop_memLit (c : Cause) (s : State) : (stop c s).memLit = s.memLit := rfl
@[simp] theorem stop_trace (c : Cause) (s : State) : (stop c s).trace = s.trace := rfl

@[simp] theorem storeToMemory_ac (a : Addr) (s : State) : (storeToMemory a s).ac = s.ac := rfl
@[simp] theorem storeToMemory_pc (a : Addr) (s : State) : (storeToMemory a s).pc = s.pc := rfl
@[simp] theorem storeToMemory_mar (a : Addr) (s : State) : (storeToMemory a s).mar = s.mar := rfl
@[simp] theorem storeToMemory_ibr (a : Addr) (s : State) : (storeToMemory a s).ibr = s.ibr := rfl
@[simp] theorem storeToMemory_ir (a : Addr) (s : State) : (storeToMemory a s).ir = s.ir := rfl
@[simp] theorem storeToMemory_re (a : Addr) (s : State) : (storeToMemory a s).re = s.re := rfl
@[simp] theorem storeToMemory_mem (a : Addr) (s : State) : (storeToMemory a s).mem = s.mem.write a s.ac := rfl
@[simp] theorem storeToMemory_ph (a : Addr) (s : State) : (storeToMemory a s).ph = s.ph := rfl
@[simp] theorem storeToMemory_run (a : Addr) (s : State) : (storeToMemory a s).run = s.run := rfl
@[simp] theorem storeToMemory_cause (a : Addr) (s : State) : (storeToMemory a s).cause = s.cause := rfl
@[simp] theorem storeToMemory_disp (a : Addr) (s : State) : (storeToMemory a s).disp = .value s.ac := rfl
@[simp] theorem storeToMemory_sym (a : Addr) (s : State) : (storeToMemory a s).sym = s.sym := rfl
@[simp] theorem storeToMemory_flags (a : Addr) (s : State) : (storeToMemory a s).flags = s.flags := rfl
@[simp] theorem storeToMemory_memLit (a : Addr) (s : State) : (storeToMemory a s).memLit = s.memLit := rfl
@[simp] theorem storeToMemory_trace (a : Addr) (s : State) : (storeToMemory a s).trace = s.trace := rfl

@[simp] theorem haltAlu_ac (s : State) : (haltAlu s).ac = 0b00000000#8 := rfl
@[simp] theorem haltAlu_pc (s : State) : (haltAlu s).pc = s.pc := rfl
@[simp] theorem haltAlu_mar (s : State) : (haltAlu s).mar = s.mar := rfl
@[simp] theorem haltAlu_ibr (s : State) : (haltAlu s).ibr = s.ibr := rfl
@[simp] theorem haltAlu_ir (s : State) : (haltAlu s).ir = s.ir := rfl
@[simp] theorem haltAlu_re (s : State) : (haltAlu s).re = s.re := rfl
@[simp] theorem haltAlu_mem (s : State) : (haltAlu s).mem = s.mem := rfl
@[simp] theorem haltAlu_ph (s : State) : (haltAlu s).ph = s.ph := rfl
@[simp] theorem haltAlu_run (s : State) : (haltAlu s).run = s.run := rfl
@[simp] theorem haltAlu_cause (s : State) : (haltAlu s).cause = s.cause := rfl
@[simp] theorem haltAlu_disp (s : State) : (haltAlu s).disp = s.disp := rfl
@[simp] theorem haltAlu_sym (s : State) : (haltAlu s).sym = s.sym := rfl
@[simp] theorem haltAlu_flags (s : State) : (haltAlu s).flags = s.flags := rfl
@[simp] theorem haltAlu_memLit (s : State) : (haltAlu s).memLit = s.memLit := rfl
@[simp] theorem haltAlu_trace (s : State) : (haltAlu s).trace = s.trace := rfl

@[simp] theorem saveX1_ac (a : Addr) (s : State) : (saveX1 a s).ac = s.ac := rfl
@[simp] theorem saveX1_pc (a : Addr) (s : State) : (saveX1 a s).pc = s.pc := rfl
@[simp] theorem saveX1_mar (a : Addr) (s : State) : (saveX1 a s).mar = s.mar := rfl
@[simp] theorem saveX1_ibr (a : Addr) (s : State) : (saveX1 a s).ibr = s.ibr := rfl
@[simp] theorem saveX1_ir (a : Addr) (s : State) : (saveX1 a s).ir = s.ir := rfl
@[simp] theorem saveX1_re (a : Addr) (s : State) : (saveX1 a s).re = s.re := rfl
@[simp] theorem saveX1_mem (a : Addr) (s : State) : (saveX1 a s).mem = s.mem.write a s.ac := rfl
@[simp] theorem saveX1_ph (a : Addr) (s : State) : (saveX1 a s).ph = s.ph := rfl
@[simp] theorem saveX1_run (a : Addr) (s : State) : (saveX1 a s).run = .stopped := rfl
@[simp] theorem saveX1_cause (a : Addr) (s : State) : (saveX1 a s).cause = .save := rfl
@[simp] theorem saveX1_disp (a : Addr) (s : State) : (saveX1 a s).disp = .value s.ac := rfl
@[simp] theorem saveX1_sym (a : Addr) (s : State) : (saveX1 a s).sym = s.sym := rfl
@[simp] theorem saveX1_flags (a : Addr) (s : State) : (saveX1 a s).flags = flagsSave s.flags := rfl
@[simp] theorem saveX1_memLit (a : Addr) (s : State) : (saveX1 a s).memLit = s.memLit := rfl
@[simp] theorem saveX1_trace (a : Addr) (s : State) : (saveX1 a s).trace = s.trace := rfl

@[simp] theorem endX1_ac (a : Addr) (s : State) : (endX1 a s).ac = 0b00000000#8 := rfl
@[simp] theorem endX1_pc (a : Addr) (s : State) : (endX1 a s).pc = s.pc := rfl
@[simp] theorem endX1_mar (a : Addr) (s : State) : (endX1 a s).mar = s.mar := rfl
@[simp] theorem endX1_ibr (a : Addr) (s : State) : (endX1 a s).ibr = s.ibr := rfl
@[simp] theorem endX1_ir (a : Addr) (s : State) : (endX1 a s).ir = s.ir := rfl
@[simp] theorem endX1_re (a : Addr) (s : State) : (endX1 a s).re = s.re := rfl
@[simp] theorem endX1_mem (a : Addr) (s : State) : (endX1 a s).mem = s.mem := rfl
@[simp] theorem endX1_ph (a : Addr) (s : State) : (endX1 a s).ph = s.ph := rfl
@[simp] theorem endX1_run (a : Addr) (s : State) : (endX1 a s).run = .stopped := rfl
@[simp] theorem endX1_cause (a : Addr) (s : State) : (endX1 a s).cause = .halt := rfl
@[simp] theorem endX1_disp (a : Addr) (s : State) : (endX1 a s).disp = s.disp := rfl
@[simp] theorem endX1_sym (a : Addr) (s : State) : (endX1 a s).sym = s.sym := rfl
@[simp] theorem endX1_flags (a : Addr) (s : State) : (endX1 a s).flags = s.flags := rfl
@[simp] theorem endX1_memLit (a : Addr) (s : State) : (endX1 a s).memLit = s.memLit := rfl
@[simp] theorem endX1_trace (a : Addr) (s : State) : (endX1 a s).trace = s.trace := rfl

@[simp] theorem invalidX1_ac (s : State) : (invalidX1 s).ac = s.ac := rfl
@[simp] theorem invalidX1_pc (s : State) : (invalidX1 s).pc = s.pc := rfl
@[simp] theorem invalidX1_mar (s : State) : (invalidX1 s).mar = s.mar := rfl
@[simp] theorem invalidX1_ibr (s : State) : (invalidX1 s).ibr = s.ibr := rfl
@[simp] theorem invalidX1_ir (s : State) : (invalidX1 s).ir = s.ir := rfl
@[simp] theorem invalidX1_re (s : State) : (invalidX1 s).re = s.re := rfl
@[simp] theorem invalidX1_mem (s : State) : (invalidX1 s).mem = s.mem := rfl
@[simp] theorem invalidX1_ph (s : State) : (invalidX1 s).ph = s.ph := rfl
@[simp] theorem invalidX1_run (s : State) : (invalidX1 s).run = .stopped := rfl
@[simp] theorem invalidX1_cause (s : State) : (invalidX1 s).cause = .invalidOpcode := rfl
@[simp] theorem invalidX1_disp (s : State) : (invalidX1 s).disp = s.disp := rfl
@[simp] theorem invalidX1_sym (s : State) : (invalidX1 s).sym = s.sym := rfl
@[simp] theorem invalidX1_flags (s : State) : (invalidX1 s).flags = s.flags := rfl
@[simp] theorem invalidX1_memLit (s : State) : (invalidX1 s).memLit = s.memLit := rfl
@[simp] theorem invalidX1_trace (s : State) : (invalidX1 s).trace = s.trace := rfl

@[simp] theorem fetchA_ac (s : State) : (fetchA s).ac = s.ac := rfl
@[simp] theorem fetchA_pc (s : State) : (fetchA s).pc = s.pc := rfl
@[simp] theorem fetchA_mar (s : State) : (fetchA s).mar = s.pc := rfl
@[simp] theorem fetchA_ibr (s : State) : (fetchA s).ibr = s.ibr := rfl
@[simp] theorem fetchA_ir (s : State) : (fetchA s).ir = s.ir := rfl
@[simp] theorem fetchA_re (s : State) : (fetchA s).re = s.re := rfl
@[simp] theorem fetchA_mem (s : State) : (fetchA s).mem = s.mem := rfl
@[simp] theorem fetchA_ph (s : State) : (fetchA s).ph = .f2 := rfl
@[simp] theorem fetchA_run (s : State) : (fetchA s).run = s.run := rfl
@[simp] theorem fetchA_cause (s : State) : (fetchA s).cause = s.cause := rfl
@[simp] theorem fetchA_disp (s : State) : (fetchA s).disp = s.disp := rfl
@[simp] theorem fetchA_sym (s : State) : (fetchA s).sym = s.sym := rfl
@[simp] theorem fetchA_flags (s : State) : (fetchA s).flags = flagsF1 s.flags := rfl
@[simp] theorem fetchA_memLit (s : State) : (fetchA s).memLit = s.memLit := rfl
@[simp] theorem fetchA_trace (s : State) : (fetchA s).trace = s.trace := rfl

@[simp] theorem decodeStep_ac (s : State) : (decodeStep s).ac = s.ac := rfl
@[simp] theorem decodeStep_pc (s : State) : (decodeStep s).pc = s.pc := rfl
@[simp] theorem decodeStep_mar (s : State) : (decodeStep s).mar = s.mar := rfl
@[simp] theorem decodeStep_ibr (s : State) : (decodeStep s).ibr = s.ibr := rfl
@[simp] theorem decodeStep_ir (s : State) : (decodeStep s).ir = s.ibr := rfl
@[simp] theorem decodeStep_re (s : State) : (decodeStep s).re = s.re := rfl
@[simp] theorem decodeStep_mem (s : State) : (decodeStep s).mem = s.mem := rfl
@[simp] theorem decodeStep_ph (s : State) : (decodeStep s).ph = .x1 := rfl
@[simp] theorem decodeStep_run (s : State) : (decodeStep s).run = s.run := rfl
@[simp] theorem decodeStep_cause (s : State) : (decodeStep s).cause = s.cause := rfl
@[simp] theorem decodeStep_disp (s : State) : (decodeStep s).disp = s.disp := rfl
@[simp] theorem decodeStep_sym (s : State) : (decodeStep s).sym = symbolOf (opcodeField s.ibr) := rfl
@[simp] theorem decodeStep_flags (s : State) : (decodeStep s).flags = flagsDec s.flags := rfl
@[simp] theorem decodeStep_memLit (s : State) : (decodeStep s).memLit = s.memLit := rfl
@[simp] theorem decodeStep_trace (s : State) : (decodeStep s).trace = s.trace := rfl

@[simp] theorem seedTrace_ac (s : State) : (seedTrace s).ac = s.ac := rfl
@[simp] theorem seedTrace_pc (s : State) : (seedTrace s).pc = s.pc := rfl
@[simp] theorem seedTrace_mar (s : State) : (seedTrace s).mar = s.mar := rfl
@[simp] theorem seedTrace_ibr (s : State) : (seedTrace s).ibr = s.ibr := rfl
@[simp] theorem seedTrace_ir (s : State) : (seedTrace s).ir = s.ir := rfl
@[simp] theorem seedTrace_re (s : State) : (seedTrace s).re = s.re := rfl
@[simp] theorem seedTrace_mem (s : State) : (seedTrace s).mem = s.mem := rfl
@[simp] theorem seedTrace_ph (s : State) : (seedTrace s).ph = s.ph := rfl
@[simp] theorem seedTrace_run (s : State) : (seedTrace s).run = s.run := rfl
@[simp] theorem seedTrace_cause (s : State) : (seedTrace s).cause = s.cause := rfl
@[simp] theorem seedTrace_disp (s : State) : (seedTrace s).disp = s.disp := rfl
@[simp] theorem seedTrace_sym (s : State) : (seedTrace s).sym = s.sym := rfl
@[simp] theorem seedTrace_flags (s : State) : (seedTrace s).flags = s.flags := rfl
@[simp] theorem seedTrace_memLit (s : State) : (seedTrace s).memLit = s.memLit := rfl
@[simp] theorem seedTrace_trace (s : State) : (seedTrace s).trace = [s.snapshot] := rfl

@[simp] theorem startRun_ac (s : State) : (startRun s).ac = s.ac := rfl
@[simp] theorem startRun_pc (s : State) : (startRun s).pc = s.pc := rfl
@[simp] theorem startRun_mar (s : State) : (startRun s).mar = s.mar := rfl
@[simp] theorem startRun_ibr (s : State) : (startRun s).ibr = s.ibr := rfl
@[simp] theorem startRun_ir (s : State) : (startRun s).ir = s.ir := rfl
@[simp] theorem startRun_re (s : State) : (startRun s).re = s.re := rfl
@[simp] theorem startRun_mem (s : State) : (startRun s).mem = s.mem := rfl
@[simp] theorem startRun_ph (s : State) : (startRun s).ph = s.ph := rfl
@[simp] theorem startRun_run (s : State) : (startRun s).run = .running := rfl
@[simp] theorem startRun_cause (s : State) : (startRun s).cause = s.cause := rfl
@[simp] theorem startRun_disp (s : State) : (startRun s).disp = s.disp := rfl
@[simp] theorem startRun_sym (s : State) : (startRun s).sym = s.sym := rfl
@[simp] theorem startRun_flags (s : State) : (startRun s).flags = s.flags := rfl
@[simp] theorem startRun_memLit (s : State) : (startRun s).memLit = s.memLit := rfl
@[simp] theorem startRun_trace (s : State) : (startRun s).trace = [s.snapshot] := rfl

/-! The snapshot shows the state's own fields. -/

@[simp] theorem snapshot_disp (s : State) : s.snapshot.disp = s.disp := rfl
@[simp] theorem snapshot_mem (s : State) : s.snapshot.mem = s.mem := rfl
@[simp] theorem snapshot_memLit (s : State) : s.snapshot.memLit = s.memLit := rfl
@[simp] theorem snapshot_pc (s : State) : s.snapshot.pc = s.pc := rfl
@[simp] theorem snapshot_mar (s : State) : s.snapshot.mar = s.mar := rfl
@[simp] theorem snapshot_ir (s : State) : s.snapshot.ir = s.ir := rfl
@[simp] theorem snapshot_ibr (s : State) : s.snapshot.ibr = s.ibr := rfl
@[simp] theorem snapshot_ac (s : State) : s.snapshot.ac = s.ac := rfl
@[simp] theorem snapshot_re (s : State) : s.snapshot.re = s.re := rfl
@[simp] theorem snapshot_sym (s : State) : s.snapshot.sym = s.sym := rfl
@[simp] theorem snapshot_flags (s : State) : s.snapshot.flags = s.flags := rfl

/-- Neither the trace nor `RUN` nor `CAUSE` is part of a snapshot (10_state.md R27). -/
@[simp] theorem snapshot_record (s : State) : (record s).snapshot = s.snapshot := rfl
@[simp] theorem snapshot_stop (c : Cause) (s : State) : (stop c s).snapshot = s.snapshot := rfl

end Sys2Proof.Machine
end

