-- ==== Sys2Proof/Laws/Ops.lean ====
section
/-! SUPPORT. What each shared operation can do, said once: the micro-step, the stop, the operand read, the ALU step, and the
parts of the cycle.  Later proofs cite these and do not unfold the operations. -/

namespace Sys2Proof.Machine

@[simp] theorem microStepWith_running (f : State → State) {s : State} (h : s.run = .running) :
    microStepWith f s = .next (record (f s)) := by simp [microStepWith, h]

/-- Outside `RUNNING` no micro-step has a transition (42_control_cycle.md R135). -/
theorem microStepWith_not_running (f : State → State) {s : State} (h : s.run ≠ .running) :
    microStepWith f s = .refused .hostOperationNotAllowed := by simp [microStepWith, h]

/-- A micro-step that has a next state was allowed, and its next state is the recorded effect. -/
theorem microStepWith_next {f : State → State} {s t : State} (h : microStepWith f s = .next t) :
    s.run = .running ∧ t = record (f s) := by
  unfold microStepWith at h
  split at h
  next hr => exact ⟨hr, (Host.Outcome.next.inj h).symm⟩
  next => cases h

@[simp] theorem andThen_next_running (k : State → Result) {s : State} (h : s.run = .running) :
    andThen (.next s) k = k s := by simp [andThen, h]

/-- After a stop nothing follows (42_control_cycle.md R142). -/
theorem andThen_next_not_running (k : State → Result) {s : State} (h : s.run ≠ .running) :
    andThen (.next s) k = .next s := by simp [andThen, h]

@[simp] theorem andThen_fault (e : Fault) (k : State → Result) : andThen (.fault e) k = .fault e := rfl

@[simp] theorem andThen_refused (e : Refusal) (k : State → Result) : andThen (.refused e) k = .refused e := rfl

/-- What a sequence of two parts can answer as a next state. -/
theorem andThen_next {r : Result} {k : State → Result} {t : State} (h : andThen r k = .next t) :
    ∃ u, r = .next u ∧ (u.run = .running ∧ k u = .next t ∨ u.run ≠ .running ∧ t = u) := by
  unfold andThen at h
  split at h
  next u =>
    split at h
    next hu => exact ⟨u, rfl, .inl ⟨hu, h⟩⟩
    next hu => exact ⟨u, rfl, .inr ⟨hu, (Host.Outcome.next.inj h).symm⟩⟩
  next => cases h
  next => cases h

theorem readOperand_empty {a : Addr} {s : State} (h : s.mem.read a = none) : readOperand a s = stop .emptyRead s := by
  simp [readOperand, operand, h]

theorem readOperand_some {a : Addr} {s : State} {b : Word} (h : s.mem.read a = some b) :
    readOperand a s = { s with re := b, flags := flagsX1Arith s.flags, ph := .x2 } := by
  simp [readOperand, operand, h]

theorem fetchB_empty {s : State} (h : s.mem.read s.mar = none) : fetchB s = stop .emptyRead s := by
  simp [fetchB, h]

theorem fetchB_some {s : State} {w : Word} (h : s.mem.read s.mar = some w) :
    fetchB s = { s with ibr := w, flags := flagsF2 s.flags, memLit := some s.mar, ph := .f3 } := by
  simp [fetchB, h]

theorem fetchC_top {s : State} (h : s.pc = 0b1111#4) : fetchC s = stop .pcWrap s := if_pos h

theorem fetchC_below {s : State} (h : s.pc ≠ 0b1111#4) :
    fetchC s = { s with pc := BitVec.ofNat 4 (s.pc.toNat + 1), flags := flagsF3 s.flags, memLit := none, ph := .dec } :=
  if_neg h

/-- X2 when the ALU succeeds. -/
theorem aluStep_success {op : Word → Word → AluOutcome} {s : State} {r : Word} (h : op s.ac s.re = .success r) :
    aluStep op s = { s with ac := r, flags := flagsAluSuccess (flagsX2 s.flags), ph := .f1 } := by
  simp [aluStep, applyOutcome, h]

/-- The cause and the display of a failure of the ALU (40_alu_arithmetic.md R98). -/
theorem aluStep_cases (op : Word → Word → AluOutcome) (s : State) :
    (∃ r, op s.ac s.re = .success r ∧
      aluStep op s = { s with ac := r, flags := flagsAluSuccess (flagsX2 s.flags), ph := .f1 }) ∨
    (∃ c d, (op s.ac s.re, c, d) ∈ [(AluOutcome.overflow, Cause.overflow, Display.overflow),
        (AluOutcome.underflow, Cause.underflow, Display.underflow),
        (AluOutcome.divideByZero, Cause.divideByZero, Display.undefined)] ∧
      aluStep op s = { s with flags := flagsX2 s.flags, disp := d, run := .stopped, cause := c }) := by
  unfold aluStep applyOutcome
  cases h : op s.ac s.re with
  | success r => exact .inl ⟨r, rfl, rfl⟩
  | overflow => exact .inr ⟨.overflow, .overflow, by simp, rfl⟩
  | underflow => exact .inr ⟨.underflow, .underflow, by simp, rfl⟩
  | divideByZero => exact .inr ⟨.divideByZero, .undefined, by simp, rfl⟩

/-- What an arithmetic instruction does, whatever its ALU operation: refused, a stop in X1, or X1 followed by X2. -/
theorem arith_cases (op : Word → Word → AluOutcome) (a : Addr) (s : State) :
    (s.run ≠ .running ∧ andThen (microStepWith (readOperand a) s) (microStepWith (aluStep op)) =
      .refused .hostOperationNotAllowed) ∨
    (s.run = .running ∧ s.mem.read a = none ∧ andThen (microStepWith (readOperand a) s) (microStepWith (aluStep op)) =
      .next (record (stop .emptyRead s))) ∨
    (∃ b, s.run = .running ∧ s.mem.read a = some b ∧
      andThen (microStepWith (readOperand a) s) (microStepWith (aluStep op)) =
        .next (record (aluStep op (record { s with re := b, flags := flagsX1Arith s.flags, ph := .x2 })))) := by
  by_cases hr : s.run = .running
  · cases hb : s.mem.read a with
    | none =>
      refine .inr (.inl ⟨hr, rfl, ?_⟩)
      rw [microStepWith_running _ hr, readOperand_empty hb, andThen_next_not_running]
      simp
    | some b =>
      refine .inr (.inr ⟨b, hr, rfl, ?_⟩)
      rw [microStepWith_running _ hr, readOperand_some hb, andThen_next_running _ (by simpa using hr),
        microStepWith_running _ (by simpa using hr)]
  · exact .inl ⟨hr, by rw [microStepWith_not_running _ hr, andThen_refused]⟩

theorem execAdd_eq (a : Addr) (s : State) :
    execAdd a s = andThen (microStepWith (readOperand a) s) (microStepWith (aluStep aluAdd)) := rfl

theorem execSub_eq (a : Addr) (s : State) :
    execSub a s = andThen (microStepWith (readOperand a) s) (microStepWith (aluStep aluSub)) := rfl

theorem execDiv_eq (a : Addr) (s : State) :
    execDiv a s = andThen (microStepWith (readOperand a) s) (microStepWith (aluStep aluDiv)) := rfl

theorem execMul_eq (a : Addr) (s : State) :
    execMul a s = andThen (microStepWith (readOperand a) s) (microStepWith (aluStep aluMul)) := rfl

/-- The six possible answers of the decoder to an instruction word, and the rejection of every other word. -/
theorem decode_cases (w : Word) :
    ((opcodeField w).toNat = 0 ∧ decode w = .ok (.add (addrField w))) ∨
    ((opcodeField w).toNat = 1 ∧ decode w = .ok (.sub (addrField w))) ∨
    ((opcodeField w).toNat = 2 ∧ decode w = .ok (.div (addrField w))) ∨
    ((opcodeField w).toNat = 3 ∧ decode w = .ok (.mul (addrField w))) ∨
    ((opcodeField w).toNat = 4 ∧ decode w = .ok (.save (addrField w))) ∨
    ((opcodeField w).toNat = 5 ∧ decode w = .ok (.halt (addrField w))) ∨
    (6 ≤ (opcodeField w).toNat ∧ decode w = .error (.invalidOpcode (opcodeField w))) := by
  have h16 := (opcodeField w).isLt
  unfold decode
  rcases h : (opcodeField w).toNat with _ | _ | _ | _ | _ | _ | n <;> simp

/-- A micro-step that has a next state records the effect of the micro-step `PH` names; in X1 and X2 the word in `IR` decides
(42_control_cycle.md R142). -/
theorem microStep_next {s t : State} (h : microStep s = .next t) :
    s.run = .running ∧ ∃ f : State → State, t = record (f s) ∧
      ((s.ph = .f1 ∧ f = fetchA) ∨ (s.ph = .f2 ∧ f = fetchB) ∨ (s.ph = .f3 ∧ f = fetchC) ∨ (s.ph = .dec ∧ f = decodeStep) ∨
       (s.ph = .x1 ∧ ∃ i, decode s.ir = .ok i ∧ f = executeX1 i) ∨
       (s.ph = .x1 ∧ (∃ e, decode s.ir = .error e) ∧ f = invalidX1) ∨
       (s.ph = .x2 ∧ ∃ a, (decode s.ir = .ok (.add a) ∧ f = addX2) ∨ (decode s.ir = .ok (.sub a) ∧ f = subX2) ∨
          (decode s.ir = .ok (.div a) ∧ f = divX2) ∨ (decode s.ir = .ok (.mul a) ∧ f = mulX2))) := by
  unfold microStep at h
  split at h
  next hp => exact ⟨(microStepWith_next h).1, _, (microStepWith_next h).2, by simp [hp]⟩
  next hp => exact ⟨(microStepWith_next h).1, _, (microStepWith_next h).2, by simp [hp]⟩
  next hp => exact ⟨(microStepWith_next h).1, _, (microStepWith_next h).2, by simp [hp]⟩
  next hp => exact ⟨(microStepWith_next h).1, _, (microStepWith_next h).2, by simp [hp]⟩
  next hp =>
    unfold microX1 at h
    split at h
    next i hd => exact ⟨(microStepWith_next h).1, _, (microStepWith_next h).2, by simp [hp, hd]⟩
    next e hd => exact ⟨(microStepWith_next h).1, _, (microStepWith_next h).2, by simp [hp, hd]⟩
  next hp =>
    unfold microX2 noMicroX2 at h
    split at h
    next a hd => exact ⟨(microStepWith_next h).1, _, (microStepWith_next h).2, by simp [hp, hd]⟩
    next a hd => exact ⟨(microStepWith_next h).1, _, (microStepWith_next h).2, by simp [hp, hd]⟩
    next a hd => exact ⟨(microStepWith_next h).1, _, (microStepWith_next h).2, by simp [hp, hd]⟩
    next a hd => exact ⟨(microStepWith_next h).1, _, (microStepWith_next h).2, by simp [hp, hd]⟩
    all_goals split at h <;> cases h

end Sys2Proof.Machine
end

