-- ==== Sys2Proof/Laws/Cycle.lean ====
section
/-! SUPPORT. What a micro-step and a cycle can do, said once: the parts of a micro-step by cases, the inversion of `microStep`, and
the value of `step` from F1.  Proofs about whole runs cite these. -/

namespace Sys2Proof.Machine

theorem readOperand_cases (a : Addr) (s : State) :
    (s.mem.read a = none ∧ readOperand a s = stop .emptyRead s) ∨
    ∃ b, s.mem.read a = some b ∧ readOperand a s = { s with re := b, flags := flagsX1Arith s.flags, ph := .x2 } := by
  cases h : s.mem.read a with
  | none => exact .inl ⟨rfl, readOperand_empty h⟩
  | some b => exact .inr ⟨b, rfl, readOperand_some h⟩

theorem fetchB_cases (s : State) :
    (s.mem.read s.mar = none ∧ fetchB s = stop .emptyRead s) ∨
    ∃ w, s.mem.read s.mar = some w ∧
      fetchB s = { s with ibr := w, flags := flagsF2 s.flags, memLit := some s.mar, ph := .f3 } := by
  cases h : s.mem.read s.mar with
  | none => exact .inl ⟨rfl, fetchB_empty h⟩
  | some w => exact .inr ⟨w, rfl, fetchB_some h⟩

theorem fetchC_cases (s : State) :
    (s.pc = 0b1111#4 ∧ fetchC s = stop .pcWrap s) ∨
    (s.pc ≠ 0b1111#4 ∧ fetchC s =
      { s with pc := BitVec.ofNat 4 (s.pc.toNat + 1), flags := flagsF3 s.flags, memLit := none, ph := .dec }) := by
  by_cases h : s.pc = 0b1111#4
  · exact .inl ⟨h, fetchC_top h⟩
  · exact .inr ⟨h, fetchC_below h⟩

/-- Below `1111` the increment of `PC` is that of the number it denotes (42_control_cycle.md R138). -/
theorem toNat_pc_succ {p : Addr} (h : p ≠ 0b1111#4) : (BitVec.ofNat 4 (p.toNat + 1)).toNat = p.toNat + 1 := by
  have hne : p.toNat ≠ 15 := fun e => h (BitVec.eq_of_toNat_eq e)
  have hlt := p.isLt
  rw [BitVec.toNat_ofNat]
  omega

/-- The ALU operation of an opcode, `none` for the opcodes that have none (42_control_cycle.md R141). -/
def aluOf (n : Nat) : Option (Word → Word → AluOutcome) := [aluAdd, aluSub, aluDiv, aluMul][n]?

/-- Only the four arithmetic opcodes have an ALU operation. -/
theorem lt_of_aluOf {n : Nat} {op : Word → Word → AluOutcome} (h : aluOf n = some op) : n < 4 := by
  obtain ⟨hlt, _⟩ := List.getElem?_eq_some_iff.1 h
  exact hlt

/-- Each of them has one. -/
theorem exists_aluOf {n : Nat} (h : n < 4) : ∃ op, aluOf n = some op :=
  ⟨_, List.getElem?_eq_getElem (l := [aluAdd, aluSub, aluDiv, aluMul]) h⟩

/-- The inversion of a micro-step: where it has a next state the core was running, the next state is recorded, and it is one of
these (42_control_cycle.md R148). -/
theorem microStep_inversion {s t : State} (h : microStep s = .next t) : s.run = .running ∧ ∃ u : State, t = record u ∧
    ((s.ph = .f1 ∧ u = fetchA s) ∨
     (s.ph = .f2 ∧ s.mem.read s.mar = none ∧ u = stop .emptyRead s) ∨
     (s.ph = .f2 ∧ ∃ w, s.mem.read s.mar = some w ∧
        u = { s with ibr := w, flags := flagsF2 s.flags, memLit := some s.mar, ph := .f3 }) ∨
     (s.ph = .f3 ∧ s.pc = 0b1111#4 ∧ u = stop .pcWrap s) ∨
     (s.ph = .f3 ∧ s.pc ≠ 0b1111#4 ∧
        u = { s with pc := BitVec.ofNat 4 (s.pc.toNat + 1), flags := flagsF3 s.flags, memLit := none, ph := .dec }) ∨
     (s.ph = .dec ∧ u = decodeStep s) ∨
     (s.ph = .x1 ∧ (opcodeField s.ir).toNat < 4 ∧ s.mem.read (addrField s.ir) = none ∧ u = stop .emptyRead s) ∨
     (s.ph = .x1 ∧ (opcodeField s.ir).toNat < 4 ∧ ∃ b, s.mem.read (addrField s.ir) = some b ∧
        u = { s with re := b, flags := flagsX1Arith s.flags, ph := .x2 }) ∨
     (s.ph = .x1 ∧ (opcodeField s.ir).toNat = 4 ∧ u = saveX1 (addrField s.ir) s) ∨
     (s.ph = .x1 ∧ (opcodeField s.ir).toNat = 5 ∧ u = endX1 (addrField s.ir) s) ∨
     (s.ph = .x1 ∧ 6 ≤ (opcodeField s.ir).toNat ∧ u = invalidX1 s) ∨
     (s.ph = .x2 ∧ ∃ op, aluOf (opcodeField s.ir).toNat = some op ∧
        ((∃ r, op s.ac s.re = .success r ∧
            u = { s with ac := r, flags := flagsAluSuccess (flagsX2 s.flags), ph := .f1 }) ∨
         (∃ c d, (op s.ac s.re, c, d) ∈ [(AluOutcome.overflow, Cause.overflow, Display.overflow),
              (AluOutcome.underflow, Cause.underflow, Display.underflow),
              (AluOutcome.divideByZero, Cause.divideByZero, Display.undefined)] ∧
            u = { s with flags := flagsX2 s.flags, disp := d, run := .stopped, cause := c })))) := by
  obtain ⟨hr, f, rfl, hf⟩ := microStep_next h
  refine ⟨hr, _, rfl, ?_⟩
  rcases hf with ⟨hp, rfl⟩ | ⟨hp, rfl⟩ | ⟨hp, rfl⟩ | ⟨hp, rfl⟩ | ⟨hp, i, hd, rfl⟩ | ⟨hp, ⟨e, hd⟩, rfl⟩ | ⟨hp, a, hf⟩
  · simp [hp]
  · rcases fetchB_cases s with ⟨h1, h2⟩ | ⟨w, h1, h2⟩ <;> simp [hp, h1, h2]
  · rcases fetchC_cases s with ⟨h1, h2⟩ | ⟨h1, h2⟩ <;> simp only [hp, h2] <;> simp [h1]
  · simp [hp]
  · rcases decode_cases s.ir with ⟨hn, h'⟩ | ⟨hn, h'⟩ | ⟨hn, h'⟩ | ⟨hn, h'⟩ | ⟨hn, h'⟩ | ⟨hn, h'⟩ | ⟨hn, h'⟩ <;>
      rw [hd] at h' <;> cases h'
    iterate 4
      · rcases readOperand_cases (addrField s.ir) s with ⟨h1, h2⟩ | ⟨w, h1, h2⟩
        · exact .inr (.inr (.inr (.inr (.inr (.inr (.inl ⟨hp, by omega, h1, h2⟩))))))
        · exact .inr (.inr (.inr (.inr (.inr (.inr (.inr (.inl ⟨hp, by omega, w, h1, h2⟩)))))))
    · simp [hp, hn, executeX1]
    · simp [hp, hn, executeX1]
  · rcases decode_cases s.ir with ⟨hn, h'⟩ | ⟨hn, h'⟩ | ⟨hn, h'⟩ | ⟨hn, h'⟩ | ⟨hn, h'⟩ | ⟨hn, h'⟩ | ⟨hn, h'⟩ <;>
      rw [hd] at h' <;> cases h'
    simp [hp, hn]
  · have hop : ∃ op, f = aluStep op ∧ aluOf (opcodeField s.ir).toNat = some op := by
      rcases hf with ⟨hd, rfl⟩ | ⟨hd, rfl⟩ | ⟨hd, rfl⟩ | ⟨hd, rfl⟩ <;>
        (rcases decode_cases s.ir with ⟨hn, h'⟩ | ⟨hn, h'⟩ | ⟨hn, h'⟩ | ⟨hn, h'⟩ | ⟨hn, h'⟩ | ⟨hn, h'⟩ | ⟨hn, h'⟩ <;>
          rw [hd] at h' <;> cases h')
      · exact ⟨aluAdd, rfl, by rw [hn]; rfl⟩
      · exact ⟨aluSub, rfl, by rw [hn]; rfl⟩
      · exact ⟨aluDiv, rfl, by rw [hn]; rfl⟩
      · exact ⟨aluMul, rfl, by rw [hn]; rfl⟩
    obtain ⟨op, rfl, ho⟩ := hop
    exact .inr (.inr (.inr (.inr (.inr (.inr (.inr (.inr (.inr (.inr (.inr ⟨hp, op, ho, aluStep_cases op s⟩))))))))))

/-- The execute phase of the word in `IR`, by its opcode (42_control_cycle.md R140). -/
theorem cycleFromX1_cases {s : State} (hr : s.run = .running) :
    ((opcodeField s.ir).toNat < 4 ∧ s.mem.read (addrField s.ir) = none ∧
      cycleFromX1 s = .next (record (stop .emptyRead s))) ∨
    (∃ op b, aluOf (opcodeField s.ir).toNat = some op ∧ s.mem.read (addrField s.ir) = some b ∧
      cycleFromX1 s = .next (record (aluStep op (record { s with re := b, flags := flagsX1Arith s.flags, ph := .x2 })))) ∨
    ((opcodeField s.ir).toNat = 4 ∧ cycleFromX1 s = .next (record (saveX1 (addrField s.ir) s))) ∨
    ((opcodeField s.ir).toNat = 5 ∧ cycleFromX1 s = .next (record (endX1 (addrField s.ir) s))) ∨
    (6 ≤ (opcodeField s.ir).toNat ∧ cycleFromX1 s = .next (record (invalidX1 s))) := by
  have arith : ∀ op, aluOf (opcodeField s.ir).toNat = some op →
      cycleFromX1 s = andThen (microStepWith (readOperand (addrField s.ir)) s) (microStepWith (aluStep op)) →
      ((opcodeField s.ir).toNat < 4 ∧ s.mem.read (addrField s.ir) = none ∧
        cycleFromX1 s = .next (record (stop .emptyRead s))) ∨
      (∃ op b, aluOf (opcodeField s.ir).toNat = some op ∧ s.mem.read (addrField s.ir) = some b ∧
        cycleFromX1 s =
          .next (record (aluStep op (record { s with re := b, flags := flagsX1Arith s.flags, ph := .x2 })))) := by
    intro op ho he
    rcases arith_cases op (addrField s.ir) s with ⟨hn, _⟩ | ⟨_, hb, h⟩ | ⟨b, _, hb, h⟩
    · exact absurd hr hn
    · exact .inl ⟨lt_of_aluOf ho, hb, he.trans h⟩
    · exact .inr ⟨op, b, ho, hb, he.trans h⟩
  rcases decode_cases s.ir with ⟨hn, hd⟩ | ⟨hn, hd⟩ | ⟨hn, hd⟩ | ⟨hn, hd⟩ | ⟨hn, hd⟩ | ⟨hn, hd⟩ | ⟨hn, hd⟩
  · exact (arith aluAdd (by rw [hn]; rfl) (by simp only [cycleFromX1, hd]; rfl)).imp_right .inl
  · exact (arith aluSub (by rw [hn]; rfl) (by simp only [cycleFromX1, hd]; rfl)).imp_right .inl
  · exact (arith aluDiv (by rw [hn]; rfl) (by simp only [cycleFromX1, hd]; rfl)).imp_right .inl
  · exact (arith aluMul (by rw [hn]; rfl) (by simp only [cycleFromX1, hd]; rfl)).imp_right .inl
  · exact .inr (.inr (.inl ⟨hn, by simp only [cycleFromX1, hd]; exact microStepWith_running _ hr⟩))
  · exact .inr (.inr (.inr (.inl ⟨hn, by simp only [cycleFromX1, hd]; exact microStepWith_running _ hr⟩)))
  · exact .inr (.inr (.inr (.inr ⟨hn, by simp only [cycleFromX1, hd]; exact microStepWith_running _ hr⟩)))

/-- The state after F1 of a running core. -/
def afterF1 (s : State) : State := record (fetchA s)

/-- The state after F1 and F2 when the cell `PC` names holds `w`. -/
def afterF2 (s : State) (w : Word) : State :=
  record { afterF1 s with ibr := w, flags := flagsF2 (afterF1 s).flags, memLit := some s.pc, ph := .f3 }

/-- The state after F1, F2 and F3 when the cell `PC` names holds `w` and `PC` is below `1111`. -/
def afterF3 (s : State) (w : Word) : State :=
  record { afterF2 s w with pc := BitVec.ofNat 4 (s.pc.toNat + 1), flags := flagsF3 (afterF2 s w).flags, memLit := none,
                            ph := .dec }

/-- The state after F1, F2, F3 and DEC. -/
def afterDec (s : State) (w : Word) : State := record (decodeStep (afterF3 s w))

/-- A step from F1 on an `EMPTY` cell (42_control_cycle.md R137). -/
theorem step_fetch_empty {s : State} (hr : s.run = .running) (hp : s.ph = .f1) (hm : s.mem.read s.pc = none) :
    step s = .next (record (stop .emptyRead (afterF1 s))) := by
  have h1 : (record (fetchA s)).run = .running := hr
  have hm1 : (record (fetchA s)).mem.read (record (fetchA s)).mar = none := hm
  simp only [step, cycle, hp, cycleFromF1]
  rw [microStepWith_running _ hr, andThen_next_running _ h1, cycleFromF2, microStepWith_running _ h1, fetchB_empty hm1,
    andThen_next_not_running _ (by simp)]
  rfl

/-- A step from F1 at `PC = 1111` (42_control_cycle.md R138). -/
theorem step_fetch_wrap {s : State} {w : Word} (hr : s.run = .running) (hp : s.ph = .f1) (hm : s.mem.read s.pc = some w)
    (hpc : s.pc = 0b1111#4) : step s = .next (record (stop .pcWrap (afterF2 s w))) := by
  have h1 : (record (fetchA s)).run = .running := hr
  have h2 : (afterF2 s w).run = .running := hr
  have hm1 : (record (fetchA s)).mem.read (record (fetchA s)).mar = some w := hm
  have hp2 : (afterF2 s w).pc = 0b1111#4 := hpc
  simp only [step, cycle, hp, cycleFromF1]
  rw [microStepWith_running _ hr, andThen_next_running _ h1, cycleFromF2, microStepWith_running _ h1, fetchB_some hm1]
  show andThen (.next (afterF2 s w)) cycleFromF3 = _
  rw [andThen_next_running _ h2, cycleFromF3, microStepWith_running _ h2, fetchC_top hp2,
    andThen_next_not_running _ (by simp)]

/-- A step from F1 that fetches is the execute phase of the fetched and decoded state (42_control_cycle.md R142). -/
theorem step_fetch {s : State} {w : Word} (hr : s.run = .running) (hp : s.ph = .f1) (hm : s.mem.read s.pc = some w)
    (hpc : s.pc ≠ 0b1111#4) : step s = cycleFromX1 (afterDec s w) := by
  have h1 : (record (fetchA s)).run = .running := hr
  have h2 : (afterF2 s w).run = .running := hr
  have h3 : (afterF3 s w).run = .running := hr
  have h4 : (afterDec s w).run = .running := hr
  have hm1 : (record (fetchA s)).mem.read (record (fetchA s)).mar = some w := hm
  have hp2 : (afterF2 s w).pc ≠ 0b1111#4 := hpc
  simp only [step, cycle, hp, cycleFromF1]
  rw [microStepWith_running _ hr, andThen_next_running _ h1, cycleFromF2, microStepWith_running _ h1, fetchB_some hm1]
  show andThen (.next (afterF2 s w)) cycleFromF3 = _
  rw [andThen_next_running _ h2, cycleFromF3, microStepWith_running _ h2, fetchC_below hp2]
  show andThen (.next (afterF3 s w)) cycleFromDec = _
  rw [andThen_next_running _ h3, cycleFromDec, microStepWith_running _ h3]
  exact andThen_next_running _ h4

/-- From `IDLE` and from `STOPPED` there is no micro-step (42_control_cycle.md R135). -/
theorem microStep_not_running {s : State} (h : s.run ≠ .running) : microStep s = .refused .hostOperationNotAllowed := by
  unfold microStep
  split <;> try exact microStepWith_not_running _ h
  · unfold microX1
    split <;> exact microStepWith_not_running _ h
  · unfold microX2
    split <;> first | exact microStepWith_not_running _ h | simp [noMicroX2, h]

/-- Nor has an instruction an execute phase there. -/
theorem exec_not_running (i : Instr) {s : State} (h : s.run ≠ .running) : exec i s = .refused .hostOperationNotAllowed := by
  have arith : ∀ (op : Word → Word → AluOutcome) (a : Addr),
      andThen (microStepWith (readOperand a) s) (microStepWith (aluStep op)) = .refused .hostOperationNotAllowed := by
    intro op a
    rw [microStepWith_not_running _ h, andThen_refused]
  cases i with
  | add a => exact arith aluAdd a
  | sub a => exact arith aluSub a
  | div a => exact arith aluDiv a
  | mul a => exact arith aluMul a
  | save a => exact microStepWith_not_running _ h
  | halt a => exact microStepWith_not_running _ h

/-- Nor is there a step. -/
theorem step_not_running {s : State} (h : s.run ≠ .running) : step s = .refused .hostOperationNotAllowed := by
  unfold step cycle
  split
  · rw [cycleFromF1, microStepWith_not_running _ h, andThen_refused]
  · rw [cycleFromF2, microStepWith_not_running _ h, andThen_refused]
  · rw [cycleFromF3, microStepWith_not_running _ h, andThen_refused]
  · rw [cycleFromDec, microStepWith_not_running _ h, andThen_refused]
  · unfold cycleFromX1
    split
    · exact exec_not_running _ h
    · exact microStepWith_not_running _ h
  · unfold microX2
    split <;> first | exact microStepWith_not_running _ h | simp [noMicroX2, h]

end Sys2Proof.Machine
end

