-- ==== Sys2Proof/Laws/Loader.lean ====
section
/-! SUPPORT. What the host's operations, the loader and the tokenizer's scanner can do, and runs of the core. -/

namespace Sys2Proof.Machine

/-- A run that begins with a step that goes on. -/
theorem core_run_next {s t : State} (h : step s = .next t) (n : Nat) :
    Host.Core.run core (n + 1) s = Host.Core.run core n t := by
  have h' : core.step s = .next t := h
  simp only [Host.Core.run, h']

/-- An operation of the idle core (42_control_cycle.md R135). -/
theorem whileIdle_next {f : State → State} {s t : State} (h : whileIdle f s = .next t) : s.run = .idle ∧ t = f s := by
  unfold whileIdle at h
  split at h
  next hi => cases h; exact ⟨hi, rfl⟩
  · cases h

/-- What the loader's writes leave in every cell (30_encoding.md R73). -/
theorem writeTokens_read (k : Nat) : ∀ (ks : List LoaderToken) (i : Nat) (m : Memory), i + ks.length ≤ 16 →
    (∀ j t, ks[j]? = some t → (writeTokens k i ks m).read (BitVec.ofNat 4 (i + j)) = some (tokenWord k (i + j) t)) ∧
    (∀ a : Addr, (a.toNat < i ∨ i + ks.length ≤ a.toNat) → (writeTokens k i ks m).read a = m.read a)
  | [], i, m, h => by simp [writeTokens]
  | t :: ts, i, m, h => by
    simp only [List.length_cons] at h
    obtain ⟨h1, h2⟩ := writeTokens_read k ts (i + 1) (m.write (BitVec.ofNat 4 i) (tokenWord k i t)) (by omega)
    have ei : (BitVec.ofNat 4 i).toNat = i := by simp; omega
    refine ⟨fun j u hj => ?_, fun a ha => ?_⟩
    · cases j with
      | zero =>
        simp only [List.length_cons, Nat.zero_lt_succ, getElem?_pos, List.getElem_cons_zero, Option.some.injEq] at hj
        subst hj
        show (writeTokens k i (t :: ts) m).read (BitVec.ofNat 4 i) = some (tokenWord k i t)
        unfold writeTokens
        rw [h2 _ (.inl (by omega)), read_write_same]
      | succ j =>
        have := h1 j u (by simpa using hj)
        unfold writeTokens
        rw [show i + (j + 1) = i + 1 + j by omega]
        exact this
    · unfold writeTokens
      simp only [List.length_cons] at ha
      rw [h2 a (by omega), read_write_other _ _ (fun e => by subst e; omega)]

/-- The loader's writes keep the memory's form. -/
theorem writeTokens_wf (k : Nat) : ∀ (ks : List LoaderToken) (i : Nat) (m : Memory), m.wf → (writeTokens k i ks m).wf
  | [], _, _, h => h
  | _ :: ts, i, _, h => writeTokens_wf k ts (i + 1) _ (write_wf h _ _)

/-- The bounds of 30_encoding.md R74. -/
theorem loadDefined_bounds {ks : List LoaderToken} (h : loadDefined ks = true) :
    operationsFirst ks = true ∧ ks.length ≤ 16 ∧ operationCount ks ≤ 8 := by
  simp only [loadDefined, Config.nCells, Config.maxOpcodeTokens, Bool.and_eq_true] at h
  exact ⟨h.1.1, of_decide_eq_true h.1.2, of_decide_eq_true h.2⟩

/-- A load that is defined (30_encoding.md R73). -/
theorem load_defined {ts : List Text} {ks : List LoaderToken} {s : State} (hs : s.run = .idle)
    (hc : checkTokens ts = .ok ks) (hd : loadDefined ks = true) :
    load ts s = .next { s with mem := writeTokens (operationCount ks) 0 ks s.mem } := by
  simp [load, hc, hd, whileIdle, hs]

/-- A failed load of an idle core (30_encoding.md R71). -/
theorem failLoad_idle (e : LoadError) {s : State} (h : s.run = .idle) :
    failLoad e s = .next (seedTrace { s with disp := e.display }) := by
  simp [failLoad, hostSetDisplay, whileIdle, h]

/-- The first token that fails decides (30_encoding.md R71). -/
theorem checkTokens_first_bad {bad : Text} {e : LoadError} (rest : List Text) (h : checkToken bad = .error e) :
    ∀ good : List Text, (∀ g ∈ good, ∃ k, checkToken g = .ok k) → checkTokens (good ++ bad :: rest) = .error e
  | [], _ => by simp [checkTokens, h]
  | g :: gs, hg => by
    obtain ⟨k, hk⟩ := hg g (by simp)
    simp [checkTokens, hk, checkTokens_first_bad rest h gs fun g' h' => hg g' (by simp [h'])]

/-- Accepted lists join to an accepted list. -/
theorem checkTokens_append : ∀ {a b : List Text} {ka kb : List LoaderToken}, checkTokens a = .ok ka →
    checkTokens b = .ok kb → checkTokens (a ++ b) = .ok (ka ++ kb)
  | [], _, _, _, h, h' => by cases h; exact h'
  | t :: a, b, ka, kb, h, h' => by
    unfold checkTokens at h
    split at h
    · cases h
    next k hk =>
      split at h
      · cases h
      next ks hks => cases h; simp [checkTokens, hk, checkTokens_append hks h']

/-- A literal is none of the six words of 30_encoding.md R72. -/
theorem operationToken_of_literal {t : Text} {l : Literal} (h : parseLiteral t = some l) : operationToken t = none := by
  unfold operationToken
  repeat' split
  all_goals first | rfl | (subst_vars; revert h; simp [parseLiteral, spanDigits, digitValue])

/-- A text that begins with a minus is no literal. -/
theorem parseLiteral_minus (t : Text) : parseLiteral ('-' :: t) = none := by
  simp [parseLiteral, spanDigits, digitValue]

/-- The decimal digits are the characters the parser reads as digits. -/
theorem mem_decimalDigits (c : Char) : c ∈ Safety.decimalDigits ↔ (digitValue c).isSome := by
  constructor
  · intro h
    simp only [Safety.decimalDigits, List.mem_cons, List.not_mem_nil, or_false] at h
    rcases h with h | h | h | h | h | h | h | h | h | h <;> subst h <;> decide
  · intro h
    unfold digitValue at h
    split at h
    next hh =>
      obtain ⟨h1, h2⟩ := hh
      have e : Char.ofNat c.toNat = c := Char.ofNat_toNat c
      generalize c.toNat = n at *
      subst e
      interval_cases n <;> decide
    · cases h

/-- The digits a text begins with are read up to the first character that is none. -/
theorem spanDigits_append : ∀ ds rest : Text, (∀ c ∈ ds, (digitValue c).isSome) →
    (∀ c r, rest = c :: r → digitValue c = none) → spanDigits (ds ++ rest) = (ds.filterMap digitValue, rest)
  | [], rest, _, hr => by
    cases rest with
    | nil => rfl
    | cons c r => simp [spanDigits, hr c r rfl]
  | d :: ds, rest, hd, hr => by
    have h := spanDigits_append ds rest (fun c hc => hd c (by simp [hc])) hr
    obtain ⟨v, hv⟩ := Option.isSome_iff_exists.1 (hd d (by simp))
    simp [spanDigits, hv, h]

/-- The scanner on a digit (30_encoding.md R76). -/
theorem scan_digit {c : Char} (h : (digitValue c).isSome) (ds fs : Text) :
    Scan.next .outside c = .inInt [c] ∧ Scan.next (.inInt ds) c = .inInt (ds ++ [c]) ∧
    Scan.next (.afterPoint ds) c = .inFrac ds [c] ∧ Scan.next (.inFrac ds fs) c = .inFrac ds (fs ++ [c]) := by
  simp [Scan.next, h]

/-- The scanner on any other character (30_encoding.md R76). -/
theorem scan_other {c : Char} (h : digitValue c = none) (ds fs : Text) :
    Scan.next .outside c = .outside ∧ Scan.next (.inInt ds) c = (if c = '.' then .afterPoint ds else .outside) ∧
    Scan.next (.afterPoint ds) c = .outside ∧ Scan.next (.inFrac ds fs) c = .outside := by
  simp [Scan.next, h]

end Sys2Proof.Machine
end

