-- ==== Sys2Proof/Laws/PerInstr.lean ====
section
/-! SUPPORT. Family `Fields`: the word of every instruction holds its opcode in the top four bits and its address in the bottom
four, and the instruction is well formed (30_encoding.md R60, R61, R63). -/

namespace Sys2Proof.Laws.Fields

/-- The two fields of the instruction's word are the instruction's opcode and address, and the instruction is well formed. -/
def Statement (i : Instr) : Prop :=
  opcodeField (encode i) = i.opcode ∧ addrField (encode i) = i.addr ∧ i.wf = true

/-- The top four bits of an instruction word are the opcode it was made of. -/
theorem opcodeField_instrWord (op : Opcode) (a : Addr) : opcodeField (instrWord op a) = op := by
  unfold opcodeField instrWord
  exact BitVec.extractLsb'_append_eq_left

/-- The bottom four bits of an instruction word are the address it was made of. -/
theorem addrField_instrWord (op : Opcode) (a : Addr) : addrField (instrWord op a) = a := by
  unfold addrField instrWord
  exact BitVec.extractLsb'_append_eq_right

/-- No term of `Instr` is ill formed: log entry 18. -/
theorem wf_true (i : Instr) : i.wf = true := by
  have h : decide (i.addr.toNat < Config.nCells) = true := decide_eq_true i.addr.isLt
  cases i <;> simp [Instr.wf, h] <;> rfl

theorem add (a : Addr) : Statement (.add a) :=
  ⟨opcodeField_instrWord _ _, addrField_instrWord _ _, wf_true _⟩

theorem sub (a : Addr) : Statement (.sub a) :=
  ⟨opcodeField_instrWord _ _, addrField_instrWord _ _, wf_true _⟩

theorem div (a : Addr) : Statement (.div a) :=
  ⟨opcodeField_instrWord _ _, addrField_instrWord _ _, wf_true _⟩

theorem mul (a : Addr) : Statement (.mul a) :=
  ⟨opcodeField_instrWord _ _, addrField_instrWord _ _, wf_true _⟩

theorem save (a : Addr) : Statement (.save a) :=
  ⟨opcodeField_instrWord _ _, addrField_instrWord _ _, wf_true _⟩

theorem halt (a : Addr) : Statement (.halt a) :=
  ⟨opcodeField_instrWord _ _, addrField_instrWord _ _, wf_true _⟩

end Sys2Proof.Laws.Fields
end

