-- ==== Sys2Proof/Tests/Slice0.lean ====
section
/-! SUPPORT. Tests, each on written-out values whose expected results come from 95_test_vectors.md or from a rule, and for
every statement with hypotheses a witness that meets them. -/

namespace Sys2Proof.Tests

open Sys2Proof.Machine Sys2Proof.Safety

/-! ## Helpers -/

/-- A run just started with the memory `m`. -/
def started (m : Memory) : State := startRun { State.reset with mem := m }

/-- A running core about to execute the word `w` in X1. -/
def atX1 (w ac : Word) (m : Memory) : State :=
  { started m with ph := .x1, ir := w, ibr := w, pc := 0b0001#4, ac := ac, sym := symbolOf (opcodeField w) }

/-- A running core about to apply the operation of the word `w` to `ac` and `re` in X2. -/
def atX2 (w ac re : Word) : State := { atX1 w ac [] with ph := .x2, re := re }

/-- A stopped core. -/
def ended : State := { State.reset with run := .stopped, cause := .halt }

/-- Does the answer hold a next state with the property `p`? -/
def answers (r : Result) (p : State → Bool) : Bool :=
  match r with
  | .next s => p s
  | .fault _ => false
  | .refused _ => false

/-- Is the operation refused with the reason `e`? -/
def refuses (r : Result) (e : Refusal) : Bool :=
  match r with
  | .next _ => false
  | .fault _ => false
  | .refused e' => e' = e

/-! ## Well-formedness (30_encoding.md R61, R62, R70, R74) -/

/-- 30_encoding.md R62: `0110` to `1111` are invalid. -/
theorem test_opcode_invalid : opcodeValid 0b0110#4 = false ∧ opcodeValid 0b1111#4 = false ∧ opcodeValid 0b0101#4 = true := by
  decide

/-- 30_encoding.md R62, 95_test_vectors.md Part 3. -/
theorem test_word_invalid : wordValid 0b01100000#8 = false ∧ wordValid 0b11111111#8 = false ∧ wordValid 0b01011111#8 = true := by
  decide

/-- `Instr` has no ill-formed term (log entry 18); the two halves of its check hold at the ends of their ranges. -/
theorem test_instr_wf : (Instr.add 0b0000#4).wf = true ∧ (Instr.halt 0b1111#4).wf = true := by decide

/-- The memory's form refuses a cell out of order, a cell twice and a cell outside the sixteen (log entry 20). -/
theorem test_memory_ill_formed : ¬Memory.wf [(1, 0#8), (0, 0#8)] ∧ ¬Memory.wf [(3, 0#8), (3, 1#8)] ∧ ¬Memory.wf [(16, 0#8)] := by
  decide

/-- 95_test_vectors.md L9: a literal before an operator, 17 tokens, 9 opcode tokens. -/
theorem test_load_bounds :
    loadDefined [.literal ⟨[1], []⟩, .operation 0b0000#4] = false ∧
    loadDefined (.operation 0b0000#4 :: List.replicate 16 (.literal ⟨[1], []⟩)) = false ∧
    loadDefined (List.replicate 9 (.operation 0b0000#4)) = false ∧
    loadDefined (List.replicate 8 (.operation 0b0000#4) ++ List.replicate 8 (.literal ⟨[1], []⟩)) = true := by
  decide

/-- 30_encoding.md R70, 93_implementation_defined.md I11: what is no literal. -/
theorem test_no_literal :
    parseLiteral ".5".toList = none ∧ parseLiteral "5.".toList = none ∧ parseLiteral "1e3".toList = none ∧
    parseLiteral "+5".toList = none ∧ parseLiteral "".toList = none := by
  decide

/-! ## Decoding: the words of 95_test_vectors.md Part 3 -/

theorem test_decode_add : decode 0b00000100#8 = .ok (.add 0b0100#4) := by decide
theorem test_decode_sub : decode 0b00010110#8 = .ok (.sub 0b0110#4) := by decide
theorem test_decode_div : decode 0b00100101#8 = .ok (.div 0b0101#4) := by decide
theorem test_decode_mul : decode 0b00110101#8 = .ok (.mul 0b0101#4) := by decide
theorem test_decode_save : decode 0b01000110#8 = .ok (.save 0b0110#4) := by decide
theorem test_decode_halt : decode 0b01010111#8 = .ok (.halt 0b0111#4) := by decide
theorem test_decode_invalid :
    decode 0b01100000#8 = .error (.invalidOpcode 0b0110#4) ∧ decode 0b11111111#8 = .error (.invalidOpcode 0b1111#4) := by
  decide

/-- A word of the table, and a number that needs more than eight bits (log entry 21). -/
theorem test_decode_table_word :
    decodeTableWord 8 0b01000000 = some (.save 0b0000#4) ∧ decodeTableWord 8 0b01100000 = none ∧
    decodeTableWord 16 0b100000000 = none := by
  decide

/-! ## One instruction each: the rows of 95_test_vectors.md Part 2 and Part 4 -/

/-- 2.5 + 1.5 = 4.0. -/
theorem test_add_result : answers (exec (.add 0b0101#4) (atX1 0b00000101#8 0b00000101#8 [(5, 0b00000011#8)]))
    (fun t => t.ac = 0b00001000#8 && t.re = 0b00000011#8 && t.ph = .f1 && t.flags.litAc) = true := by decide

/-- 127.5 + 0.5 overflows and keeps `AC`. -/
theorem test_add_overflow : answers (exec (.add 0b0101#4) (atX1 0b00000101#8 0b11111111#8 [(5, 0b00000001#8)]))
    (fun t => t.ac = 0b11111111#8 && t.disp = .overflow && t.cause = .overflow && t.ph = .x2 && !t.flags.litAc) = true := by
  decide

/-- 7.0 - 2.5 = 4.5. -/
theorem test_sub_result : answers (exec (.sub 0b0110#4) (atX1 0b00010110#8 0b00001110#8 [(6, 0b00000101#8)]))
    (fun t => t.ac = 0b00001001#8 && t.run = .running) = true := by decide

/-- 2.5 - 7.0 underflows; the text is UNDERFLOW (90_conflicts.md C1). -/
theorem test_sub_underflow : answers (exec (.sub 0b0110#4) (atX1 0b00010110#8 0b00000101#8 [(6, 0b00001110#8)]))
    (fun t => t.ac = 0b00000101#8 && t.disp = .underflow && t.cause = .underflow) = true := by decide

/-- 2.5 / 2.0 = 1.25 is a tie and goes up to 1.5. -/
theorem test_div_tie : answers (exec (.div 0b0101#4) (atX1 0b00100101#8 0b00000101#8 [(5, 0b00000100#8)]))
    (fun t => t.ac = 0b00000011#8) = true := by decide

/-- 0 / 0 is DIVIDE_BY_ZERO. -/
theorem test_div_by_zero : answers (exec (.div 0b0101#4) (atX1 0b00100101#8 0b00000000#8 [(5, 0b00000000#8)]))
    (fun t => t.disp = .undefined && t.cause = .divideByZero && t.run = .stopped) = true := by decide

/-- 2.5 · 2.5 = 6.25 is a tie and goes up to 6.5. -/
theorem test_mul_tie : answers (exec (.mul 0b0101#4) (atX1 0b00110101#8 0b00000101#8 [(5, 0b00000101#8)]))
    (fun t => t.ac = 0b00001101#8) = true := by decide

/-- 36.5 · 3.5 = 127.75 is the least product that fails. -/
theorem test_mul_overflow : answers (exec (.mul 0b0101#4) (atX1 0b00110101#8 0b01001001#8 [(5, 0b00000111#8)]))
    (fun t => t.ac = 0b01001001#8 && t.cause = .overflow) = true := by decide

/-- 41_store_halt.md R121's example. -/
theorem test_save : answers (exec (.save 0b0110#4) (atX1 0b01000110#8 0b00000100#8 [(7, 0b00000001#8)]))
    (fun t => t.mem = [(6, 0b00000100#8), (7, 0b00000001#8)] && t.disp = .value 0b00000100#8 && t.cause = .save &&
      t.flags.wAcAlu && t.flags.wAluMbr) = true := by decide

/-- 41_store_halt.md R123's example. -/
theorem test_halt : answers (exec (.halt 0b0011#4) (atX1 0b01010011#8 0b00000010#8 []))
    (fun t => t.ac = 0b00000000#8 && t.disp = .blank && t.cause = .halt && t.run = .stopped) = true := by decide

/-- An arithmetic instruction on an `EMPTY` cell (95_test_vectors.md P12). -/
theorem test_empty_operand : answers (exec (.div 0b0101#4) (atX1 0b00100101#8 0b00000010#8 []))
    (fun t => t.cause = .emptyRead && t.ph = .x1 && t.ac = 0b00000010#8 && t.re = 0b00000000#8) = true := by decide

/-! ## The cycle: 95_test_vectors.md P1 (snapshots 6 and 2), P11, P12, P13 -/

/-- The first cycle of the text `1+1`. -/
theorem test_cycle : answers (step (started [(0, 0b00000100#8), (4, 0b00000010#8)]))
    (fun t => t.pc = 0b0001#4 && t.mar = 0b0000#4 && t.ibr = 0b00000100#8 && t.ir = 0b00000100#8 && t.ac = 0b00000010#8 &&
      t.re = 0b00000010#8 && t.sym = .plus && t.memLit = none && t.trace.length = 7 &&
      t.flags = { Flags.clear with litMar := true, litIr := true, litAc := true, wPcMar := true, wIbrIr := true,
                                   wAluAc := true }) = true := by decide

/-- Its snapshot 2, after F2. -/
theorem test_micro_step_f2 : answers (microSteps 2 (started [(0, 0b00000100#8), (4, 0b00000010#8)]))
    (fun t => t.ibr = 0b00000100#8 && t.memLit = some 0b0000#4 &&
      t.flags = { Flags.clear with litMar := true, litIbr := true, wPcMar := true, wMarMem := true, wMemMbr := true,
                                   wMbrIbr := true }) = true := by decide

/-- An invalid opcode in the first cell. -/
theorem test_cycle_invalid : answers (step (started [(0, 0b01100000#8)]))
    (fun t => t.cause = .invalidOpcode && t.pc = 0b0001#4 && t.ir = 0b01100000#8 && t.sym = .none && t.disp = .blank &&
      t.trace.length = 6) = true := by decide

/-- An empty memory. -/
theorem test_cycle_empty : answers (step (started []))
    (fun t => t.cause = .emptyRead && t.ph = .f2 && t.ibr = 0b00000000#8 && t.trace.length = 3 &&
      t.flags = { Flags.clear with litMar := true, wPcMar := true }) = true := by decide

/-- END in cell `1111` is fetched and never executed. -/
theorem test_cycle_wrap : answers (step { started [(15, 0b01010000#8)] with pc := 0b1111#4 })
    (fun t => t.cause = .pcWrap && t.ph = .f3 && t.pc = 0b1111#4 && t.ibr = 0b01010000#8 && t.ir = 0b00000000#8) = true := by
  decide

/-- From reset nothing runs: the core is idle (42_control_cycle.md R135). -/
theorem test_reset_is_idle : refuses (step State.reset) .hostOperationNotAllowed = true := by decide

/-- The word placed by `withFetchWord` is the one the next step runs, after reset and after a stop. -/
theorem test_with_fetch_word :
    answers (step (State.reset.withFetchWord 8 0b01010000)) (fun t => t.cause = .halt) = true ∧
    answers (step (State.withFetchWord ended 8 0b01000000)) (fun t => t.cause = .save) = true := by
  decide

/-- `withFetchWord` on the reset state is `HostWrite` and `Start`. -/
theorem test_with_fetch_word_is_host_use :
    hostSteps [.write 0b0000#4 0b00000100#8, .start] State.reset = .next (State.reset.withFetchWord 8 0b00000100) := rfl

/-! ## Loader and tokenizer: 95_test_vectors.md Part 3 -/

/-- L7. -/
theorem test_load : answers (load ["+".toList, "+".toList, "SAVE".toList, "END".toList, "1".toList, "1".toList] State.reset)
    (fun t => t.mem = [(0, 0b00000100#8), (1, 0b00000101#8), (2, 0b01000110#8), (3, 0b01010111#8), (4, 0b00000010#8),
      (5, 0b00000010#8)]) = true := by decide

/-- L5: the first offending token wins. -/
theorem test_load_rejected : answers (loadAndStart ["+".toList, "abc".toList, "-5".toList] State.reset)
    (fun t => t.disp = .invalidInput && t.mem = [] && t.run = .idle && t.trace.length = 1) = true := by decide

/-- `127.74` fits and `127.75` does not; `0.25` is a tie. -/
theorem test_literals :
    (parseLiteral "127.74".toList).map literalCode = some 255 ∧ (parseLiteral "127.75".toList).map literalCode = some 256 ∧
    (parseLiteral "0.25".toList).map literalCode = some 1 ∧ (parseLiteral "2.3".toList).map literalCode = some 5 := by
  decide

/-- `-5+3`, `7` and `x = 2 * 3 ?`. -/
theorem test_tokenize :
    tokenize "-5+3".toList = ["-", "+", "SAVE", "END", "5", "3"].map String.toList ∧
    tokenize "7".toList = ["+", "SAVE", "END", "7"].map String.toList ∧
    tokenize "x = 2 * 3 ?".toList = ["+", "*", "SAVE", "END", "2", "3"].map String.toList := by
  decide

/-- The default text of 30_encoding.md R80. -/
theorem test_display_default :
    displayTextDefault 0b00001111#8 = "7.5".toList ∧ displayTextDefault 0b00000001#8 = "0.5".toList ∧
    displayTextDefault 0b00000000#8 = "0".toList ∧ displayTextDefault 0b11111111#8 = "127.5".toList ∧
    displayText 0b00000100#8 = "2".toList := by
  refine ⟨?_, ?_, ?_, ?_, ?_⟩ <;> rfl

/-! ## Witnesses: one for the hypotheses of each statement, clause by clause -/

theorem witness_DecodeAndEncodeAgree :
    (Instr.mul 0b1111#4).wf = true ∧ decode 0b01011111#8 = .ok (.halt 0b1111#4) ∧
    (∃ e, decode 0b01100000#8 = .error e) ∧ 6 ≤ ((0b01100000#8).extractLsb' 4 4).toNat :=
  ⟨by decide, by decide, ⟨_, rfl⟩, by decide⟩

theorem witness_MemWriteSetsOneCell :
    (0b1111#4 ≠ 0b1110#4) ∧
    (∃ t, (atX1 0b01001111#8 0b00000100#8 []).ph = .x1 ∧
      decode (atX1 0b01001111#8 0b00000100#8 []).ir = .ok (.save 0b1111#4) ∧
      microStep (atX1 0b01001111#8 0b00000100#8 []) = .next t) ∧
    State.reset.run = .idle :=
  ⟨by decide, ⟨_, rfl, by decide, rfl⟩, rfl⟩

theorem witness_OnlySaveChangesMemory :
    (∃ t, microStep (atX1 0b01000000#8 0b00000100#8 []) = .next t) ∧ ∃ t, microStep (started []) = .next t :=
  ⟨⟨_, rfl⟩, ⟨_, rfl⟩⟩

theorem witness_AluAddition :
    255 < (0b11111111#8 : Word).toNat + (0b00000001#8 : Word).toNat ∧
    (0b11111111#8 : Word).toNat + (0b00000000#8 : Word).toNat ≤ 255 := by decide

theorem witness_AluSubtraction :
    (0b11111110#8 : Word).toNat < (0b11111111#8 : Word).toNat ∧
    (0b11111111#8 : Word).toNat ≤ (0b11111111#8 : Word).toNat := by decide

theorem witness_AluMultiplicationAndDivision :
    511 ≤ (0b01001001#8 : Word).toNat * (0b00000111#8 : Word).toNat ∧
    (0b00000011#8 : Word).toNat * (0b10101010#8 : Word).toNat < 511 ∧
    128 ≤ (0b10000000#8 : Word).toNat ∧
    ¬((0b00000001#8 : Word) = 0b00000001#8 ∧ 128 ≤ (0b01111111#8 : Word).toNat) ∧
    (0b00000010#8 : Word) ≠ 0b00000000#8 := by decide

theorem witness_EncodingRoundsToTheNearestHalf :
    (0 : ℚ) ≤ 1 / 4 ∧ encQ (1 / 4) ≤ 255 ∧ encQ (255 / 2) ≤ 255 ∧ 0 < 1 := by
  refine ⟨by norm_num, ?_, ?_, by decide⟩ <;> norm_num [encQ]

theorem witness_AddExecutes :
    (let s := atX1 0b00001111#8 0b11111110#8 [(15, 0b00000001#8)]
     s.run = .running ∧ s.mem.read 0b1111#4 = some 0b00000001#8 ∧ s.ac.toNat + (0b00000001#8 : Word).toNat ≤ 255) ∧
    (let s := atX1 0b00001111#8 0b11111111#8 [(15, 0b00000001#8)]
     s.run = .running ∧ s.mem.read 0b1111#4 = some 0b00000001#8 ∧ 255 < s.ac.toNat + (0b00000001#8 : Word).toNat) := by decide

theorem witness_SubExecutes :
    (let s := atX1 0b00010000#8 0b11111111#8 [(0, 0b11111111#8)]
     s.run = .running ∧ s.mem.read 0b0000#4 = some 0b11111111#8 ∧ (0b11111111#8 : Word).toNat ≤ s.ac.toNat) ∧
    (let s := atX1 0b00010000#8 0b11111110#8 [(0, 0b11111111#8)]
     s.run = .running ∧ s.mem.read 0b0000#4 = some 0b11111111#8 ∧ s.ac.toNat < (0b11111111#8 : Word).toNat) := by decide

theorem witness_DivExecutes :
    (let s := atX1 0b00100011#8 0b01111111#8 [(3, 0b00000001#8)]
     s.run = .running ∧ s.mem.read 0b0011#4 = some 0b00000001#8 ∧ (4 * s.ac.toNat + 1) / (2 * 1) ≤ 255) ∧
    (let s := atX1 0b00100011#8 0b11111111#8 [(3, 0b00000000#8)]
     s.run = .running ∧ s.mem.read 0b0011#4 = some 0b00000000#8 ∧ (0b00000000#8 : Word).toNat = 0) ∧
    (let s := atX1 0b00100011#8 0b10000000#8 [(3, 0b00000001#8)]
     s.run = .running ∧ s.mem.read 0b0011#4 = some 0b00000001#8 ∧ 255 < (4 * s.ac.toNat + 1) / (2 * 1)) := by decide

theorem witness_MulExecutes :
    (let s := atX1 0b00110011#8 0b01001000#8 [(3, 0b00000111#8)]
     s.run = .running ∧ s.mem.read 0b0011#4 = some 0b00000111#8 ∧ (s.ac.toNat * (0b00000111#8 : Word).toNat + 1) / 2 ≤ 255) ∧
    (let s := atX1 0b00110011#8 0b01001001#8 [(3, 0b00000111#8)]
     s.run = .running ∧ s.mem.read 0b0011#4 = some 0b00000111#8 ∧
       255 < (s.ac.toNat * (0b00000111#8 : Word).toNat + 1) / 2) := by decide

theorem witness_EmptyOperandStopsTheRun :
    (started []).run = .running ∧ (started []).mem.read 0b1111#4 = none ∧
    Instr.mul 0b1111#4 ∈ [Instr.add 0b1111#4, Instr.sub 0b1111#4, Instr.div 0b1111#4, Instr.mul 0b1111#4] := by decide

theorem witness_SaveExecutes_EndExecutes : (atX1 0b01001111#8 0b11111111#8 []).run = .running := rfl

theorem witness_InvalidOpcodeStopsTheRun :
    (atX1 0b01100000#8 0b00000001#8 []).run = .running ∧ (atX1 0b01100000#8 0b00000001#8 []).ph = .x1 ∧
    6 ≤ ((atX1 0b01100000#8 0b00000001#8 []).ir.extractLsb' 4 4).toNat := by decide

theorem witness_ArithmeticFrame :
    (∃ t, exec (.add 0b0000#4) (atX1 0b00000000#8 0b00000001#8 [(0, 0b00000000#8)]) = .next t ∧ t.run = .running) ∧
    (∃ t, exec (.sub 0b0000#4) (atX1 0b00010000#8 0b00000001#8 [(0, 0b00010000#8)]) = .next t ∧ t.run = .stopped) ∧
    (∃ t, exec (.div 0b1111#4) (atX1 0b00101111#8 0b00000001#8 []) = .next t ∧ t.run = .stopped) ∧
    (∃ t, exec (.mul 0b0000#4) (atX1 0b00110000#8 0b00000001#8 [(0, 0b00110000#8)]) = .next t ∧ t.run = .running) :=
  ⟨⟨_, rfl, rfl⟩, ⟨_, rfl, rfl⟩, ⟨_, rfl, rfl⟩, ⟨_, rfl, rfl⟩⟩

theorem witness_SaveAndEndFrame :
    (∃ t, exec (.save 0b1111#4) (atX1 0b01001111#8 0b00000001#8 []) = .next t) ∧
    ∃ t, exec (.halt 0b1111#4) (atX1 0b01011111#8 0b00000001#8 []) = .next t :=
  ⟨⟨_, rfl⟩, ⟨_, rfl⟩⟩

theorem witness_FetchCopiesPcToMar : (started []).run = .running ∧ (started []).ph = .f1 := ⟨rfl, rfl⟩

theorem witness_FetchReadsTheCellAtMar :
    (∃ t, microSteps 1 (started [(0, 0b01100000#8)]) = .next t ∧ t.run = .running ∧ t.ph = .f2 ∧
      t.mem.read t.mar = some 0b01100000#8) ∧
    ∃ t, microSteps 1 (started []) = .next t ∧ t.run = .running ∧ t.ph = .f2 ∧ t.mem.read t.mar = none :=
  ⟨⟨_, rfl, rfl, rfl, rfl⟩, ⟨_, rfl, rfl, rfl, rfl⟩⟩

theorem witness_FetchIncrementsPc :
    (∃ t, microSteps 2 { started [(14, 0b00000000#8)] with pc := 0b1110#4 } = .next t ∧ t.run = .running ∧ t.ph = .f3 ∧
      t.pc ≠ 0b1111#4) ∧
    ∃ t, microSteps 2 { started [(15, 0b00000000#8)] with pc := 0b1111#4 } = .next t ∧ t.run = .running ∧ t.ph = .f3 ∧
      t.pc = 0b1111#4 :=
  ⟨⟨_, rfl, rfl, rfl, by decide⟩, ⟨_, rfl, rfl, rfl, rfl⟩⟩

theorem witness_DecodeLoadsIr :
    ∃ t, microSteps 3 (started [(0, 0b11111111#8)]) = .next t ∧ t.run = .running ∧ t.ph = .dec := ⟨_, rfl, rfl, rfl⟩

theorem witness_ExecuteDispatchesOnTheOpcode :
    (atX1 0b00111111#8 0b00000001#8 []).run = .running ∧ (atX1 0b00111111#8 0b00000001#8 []).ph = .x1 := ⟨rfl, rfl⟩

theorem witness_SecondExecuteStepAppliesTheAlu :
    (atX2 0b00110000#8 0b00000001#8 0b00000001#8).run = .running ∧ (atX2 0b00110000#8 0b00000001#8 0b00000001#8).ph = .x2 ∧
    [aluAdd, aluSub, aluDiv, aluMul][((atX2 0b00110000#8 0b00000001#8 0b00000001#8).ir.extractLsb' 4 4).toNat]? = some aluMul ∧
    4 ≤ ((atX2 0b01000000#8 0b00000001#8 0b00000001#8).ir.extractLsb' 4 4).toNat :=
  ⟨rfl, rfl, rfl, by decide⟩

theorem witness_EveryRegisterHasItsWriter : ∃ t, microStep (atX2 0b00000000#8 0b00000001#8 0b00000001#8) = .next t := ⟨_, rfl⟩

theorem witness_PcOnlyGrowsByOnePerCycle :
    (∃ t, exec (.add 0b0000#4) (atX1 0b00000000#8 0b00000001#8 [(0, 0b00000000#8)]) = .next t) ∧
    (∃ t, microSteps 3 (started [(0, 0b00000000#8)]) = .next t) ∧ (started [(0, 0b00000000#8)]).ph = .f1 ∧
    ∃ t, step (started [(0, 0b00000000#8)]) = .next t :=
  ⟨⟨_, rfl⟩, ⟨_, rfl⟩, rfl, ⟨_, rfl⟩⟩

theorem witness_MicroStepsFollowInOrder :
    ∃ t, microStep (atX2 0b00000000#8 0b00000001#8 0b00000001#8) = .next t ∧ t.run = .running ∧
      (atX2 0b00000000#8 0b00000001#8 0b00000001#8).ph = .x2 := ⟨_, rfl, rfl, rfl⟩

theorem witness_StopEntryWritesWhatItsRuleLists :
    (∃ t, microStep (atX1 0b01000000#8 0b00000001#8 []) = .next t ∧ t.run = .stopped ∧ t.cause = .save) ∧
    (∃ t, microStep (atX1 0b01010000#8 0b00000001#8 []) = .next t ∧ t.run = .stopped ∧ t.cause = .halt) ∧
    (∃ t, microStep (atX2 0b00000000#8 0b11111111#8 0b00000001#8) = .next t ∧ t.run = .stopped ∧ t.cause = .overflow) ∧
    (∃ t, microStep (atX2 0b00010000#8 0b00000000#8 0b00000001#8) = .next t ∧ t.run = .stopped ∧ t.cause = .underflow) ∧
    (∃ t, microStep (atX2 0b00100000#8 0b00000000#8 0b00000000#8) = .next t ∧ t.run = .stopped ∧ t.cause = .divideByZero) ∧
    (∃ t, microStep (atX1 0b01100000#8 0b00000001#8 []) = .next t ∧ t.run = .stopped ∧ t.cause = .invalidOpcode) ∧
    (∃ t, microStep (atX1 0b00000000#8 0b00000001#8 []) = .next t ∧ t.run = .stopped ∧ t.cause = .emptyRead) ∧
    ∃ t, microStep { started [] with ph := .f3, pc := 0b1111#4 } = .next t ∧ t.run = .stopped ∧ t.cause = .pcWrap :=
  ⟨⟨_, rfl, rfl, rfl⟩, ⟨_, rfl, rfl, rfl⟩, ⟨_, rfl, rfl, rfl⟩, ⟨_, rfl, rfl, rfl⟩, ⟨_, rfl, rfl, rfl⟩, ⟨_, rfl, rfl, rfl⟩,
    ⟨_, rfl, rfl, rfl⟩, ⟨_, rfl, rfl, rfl⟩⟩

theorem witness_EveryCauseHasItsPlace :
    ∃ t, microStep (atX2 0b00100000#8 0b10000000#8 0b00000001#8) = .next t ∧ t.run = .stopped ∧ t.cause = .overflow :=
  ⟨_, rfl, rfl, rfl⟩

theorem witness_StoppedIsFinal :
    ended.run = .stopped ∧ (∃ t, hostStep .readSnapshot ended = .next t) ∧ ∃ t, hostStep .reset ended = .next t :=
  ⟨rfl, ⟨_, rfl⟩, ⟨_, rfl⟩⟩

theorem witness_HostOperationsHaveTheirTimes :
    State.reset.run = .idle ∧ (started []).run = .running ∧ ∃ t, hostStep .microStep (started []) = .next t :=
  ⟨rfl, rfl, ⟨_, rfl⟩⟩

theorem witness_StepRunsTheDecodedInstruction :
    (started [(0, 0b01011111#8)]).run = .running ∧ (started [(0, 0b01011111#8)]).ph = .f1 ∧
    (started [(0, 0b01011111#8)]).mem.read (started [(0, 0b01011111#8)]).pc = some 0b01011111#8 ∧
    (started [(0, 0b01011111#8)]).pc ≠ 0b1111#4 ∧ decode 0b01011111#8 = .ok (.halt 0b1111#4) ∧
    ∃ e, decode 0b01100000#8 = .error e :=
  ⟨rfl, rfl, rfl, by decide, by decide, ⟨_, rfl⟩⟩

theorem witness_StepStopsWhereNothingCanBeFetched :
    ((started []).run = .running ∧ (started []).ph = .f1 ∧ (started []).mem.read (started []).pc = none) ∧
    ({ started [(15, 0b01010000#8)] with pc := 0b1111#4 } : State).mem.read 0b1111#4 = some 0b01010000#8 :=
  ⟨⟨rfl, rfl, rfl⟩, rfl⟩

theorem witness_StepIsItsMicroSteps :
    (started [(0, 0b00000000#8)]).run = .running ∧ (∃ t, step (started [(0, 0b00000000#8)]) = .next t) ∧
    ∃ u, microSteps 5 (started [(0, 0b00000000#8)]) = .next u := ⟨rfl, ⟨_, rfl⟩, ⟨_, rfl⟩⟩

theorem witness_SnapshotsOfACycle_EveryRunEnds :
    (started [(0, 0b00000000#8)]).run = .running ∧ (started [(0, 0b00000000#8)]).ph = .f1 := ⟨rfl, rfl⟩

/-- ADD of its own cell and an END in cell `1110`. -/
theorem witness_WellPlacedWordsEndByAnOwnCause :
    let s : State := { started [(13, 0b00001101#8), (14, 0b01010000#8)] with pc := 0b1101#4 }
    s.run = .running ∧ s.ph = .f1 ∧ runsToOwnEnd s.mem s.pc.toNat 14 := by decide

/-- The reset state and a state in the middle of a cycle meet the invariant, and both go on. -/
theorem witness_invariants :
    MachineInvariant State.reset ∧
    (∃ t, microSteps 5 (started [(0, 0b00000000#8)]) = .next t ∧ MachineInvariant t ∧ t.run = .running ∧
      (∃ u, microStep t = .next u) ∧ ∃ u, step t = .next u) ∧
    (∃ t, hostStep (.write 0b1111#4 0b00000000#8) State.reset = .next t) ∧
    (∃ t, load ["+".toList, "1".toList] State.reset = .next t) ∧
    (∃ t, loadAndStart ["+".toList, "1".toList] State.reset = .next t) ∧ ∃ t, boot "1+1".toList = .next t :=
  ⟨⟨by decide, by decide, by decide, by decide, by decide⟩,
    ⟨_, rfl, ⟨by decide, by decide, by decide, by decide, by decide⟩, rfl, ⟨_, rfl⟩, ⟨_, rfl⟩⟩, ⟨_, rfl⟩, ⟨_, rfl⟩, ⟨_, rfl⟩, ⟨_, rfl⟩⟩

/-- Two states that differ in their lights and their trace only, and two that differ in their traces only. -/
theorem witness_LightsAndTraceDriveNothing :
    (let s' : State := { started [] with flags := { Flags.clear with litAc := true }, memLit := some 0b0001#4, trace := [] }
     s' ≠ started [] ∧ withoutLights s' = withoutLights (started [])) ∧
    (let s' : State := { started [] with trace := [] }
     s' ≠ started [] ∧ withoutTrace s' = withoutTrace (started [])) := by decide

theorem witness_OldInstructionRegistersDoNotMatter :
    let s' : State := { started [] with ibr := 0b11111111#8, ir := 0b00000001#8, re := 0b00000010#8, sym := .star }
    (started []).ph = .f1 ∧ s' ≠ started [] ∧
      withoutInstructionRegisters (started []) = withoutInstructionRegisters s' := by decide

theorem witness_DisplayTexts : (0b11111110#8 : Word).getLsbD 0 = false := by decide

theorem witness_LoadLaysOutTheTokens :
    State.reset.run = .idle ∧
    checkTokens ["+".toList, "127.74".toList] = .ok [.operation 0b0000#4, .literal ⟨[1, 2, 7], [7, 4]⟩] ∧
    loadDefined [.operation 0b0000#4, .literal ⟨[1, 2, 7], [7, 4]⟩] = true := by decide

theorem witness_RejectedLoadWritesNothing :
    State.reset.run = .idle ∧ (∀ g ∈ ["+".toList], ∃ k, checkToken g = .ok k) ∧
    checkToken "127.75".toList = .error .overflow :=
  ⟨rfl, by simp only [List.mem_singleton, forall_eq]; exact ⟨_, rfl⟩, by decide⟩

theorem witness_TokenTests :
    checkToken ['/'] = .ok (.operation 0b0010#4) ∧ checkToken ['*'] = .ok (.operation 0b0011#4) ∧
    checkToken "END".toList = .ok (.operation 0b0101#4) ∧
    (∃ l, parseLiteral "127.74".toList = some l ∧ literalCode l ≤ 255) ∧
    (∃ l, parseLiteral "127.75".toList = some l ∧ 255 < literalCode l) ∧
    parseLiteral "-x".toList = none ∧ (∀ r, "-x".toList = '-' :: r → parseLiteral r = none) ∧
    "-x".toList ∉ [['+'], ['-'], ['/'], ['*'], ['S', 'A', 'V', 'E'], ['E', 'N', 'D']] :=
  ⟨by decide, by decide, by decide, ⟨_, rfl, by decide⟩, ⟨_, rfl, by decide⟩, by decide, fun r h => by cases h; decide, by decide⟩

/-- `.` is no digit; `5` is not extended by `.` alone nor by the end of the text, `2.5` not by `.3`, but `2` is by `.5`. -/
theorem witness_TokenizerOutput :
    "5".toList ∈ numbers "-5+3".toList ∧ checkTokens (tokenize "128".toList) = .error .overflow ∧
    '.' ∉ decimalDigits ∧ (isLiteralText "5".toList ∧ cannotBeExtended "5".toList ".x".toList) ∧
    (isLiteralText "5".toList ∧ cannotBeExtended "5".toList []) ∧
    (isLiteralText "2.5".toList ∧ cannotBeExtended "2.5".toList ".3".toList) ∧
    ¬cannotBeExtended "2".toList ".5".toList :=
  ⟨by decide, by decide, by decide, ⟨by decide, by decide⟩, ⟨by decide, by decide⟩, ⟨by decide, by decide⟩, by decide⟩

theorem witness_LiteralsAreReadAsNumbers :
    isLiteralText "0.0".toList ∧ ¬isLiteralText "5.".toList ∧ digitText [1, 2, 7] = "127".toList ∧
    numeralValue [1, 2, 7] = 127 ∧ ([0] : List (Fin 10)) ≠ [] := by decide

/-- Two states with equal snapshots that differ. -/
theorem witness_SnapshotShowsTheState : ended ≠ State.reset ∧ ended.snapshot = State.reset.snapshot := by decide

theorem witness_BootedExpressionEndsByAnOwnCause :
    (withLeadingPlus (operators "1+2+3+4+5+127.74".toList) (numbers "1+2+3+4+5+127.74".toList)).length =
      (numbers "1+2+3+4+5+127.74".toList).length ∧
    (numbers "1+2+3+4+5+127.74".toList).length ≤ 6 ∧
    ∀ n ∈ numbers "1+2+3+4+5+127.74".toList, ∀ l, parseLiteral n = some l → literalCode l ≤ 255 := by
  refine ⟨by decide, by decide, fun n hn l hl => ?_⟩
  have h : ∀ n ∈ numbers "1+2+3+4+5+127.74".toList, ∀ l ∈ parseLiteral n, literalCode l ≤ 255 := by decide
  exact h n hn l hl

end Sys2Proof.Tests
end

/-! Statements of 10_state.md: what the snapshot shows, who writes each register and the memory, and what does not matter. -/

namespace Sys2Proof.Machine

open Sys2Proof.Safety

/-! ## The snapshot (10_state.md R27) -/

/-- The snapshot hides only `PH`, `RUN`, `CAUSE` and the trace. -/
theorem eq_of_snapshot_eq {s t : State} (h : t.snapshot = s.snapshot) :
    t = { s with ph := t.ph, run := t.run, cause := t.cause, trace := t.trace } := by
  cases s
  cases t
  simp only [State.snapshot, Snapshot.mk.injEq] at h
  simp [h]

/-- Settles O55: each field is shown by definition, and the shown fields determine all but the four hidden ones. -/
theorem snapshotShowsTheState : Obligations.SnapshotShowsTheState := fun _ =>
  ⟨rfl, fun _ => rfl, rfl, rfl, rfl, rfl, rfl, rfl, rfl, rfl, rfl, fun _ _ _ _ => rfl, fun _ h => eq_of_snapshot_eq h⟩

/-! ## Who writes memory and the registers (10_state.md R12 to R18) -/

/-- The opcode `0100` is that of SAVE (30_encoding.md R61). -/
theorem decode_save {w : Word} (h : (opcodeField w).toNat = 4) : decode w = .ok (.save (addrField w)) := by
  unfold decode
  rw [h]
  rfl

/-- Every micro-step but the X1 of SAVE keeps the memory (20_memory.md R54). -/
theorem microStep_mem {s t : State} (h : microStep s = .next t) :
    (s.ph = .x1 ∧ (opcodeField s.ir).toNat = 4 ∧ t = record (saveX1 (addrField s.ir) s)) ∨ t.mem = s.mem := by
  obtain ⟨-, u, rfl, ⟨-, rfl⟩ | ⟨-, -, rfl⟩ | ⟨-, w, -, rfl⟩ | ⟨-, -, rfl⟩ | ⟨-, -, rfl⟩ | ⟨-, rfl⟩ | ⟨-, -, -, rfl⟩ |
    ⟨-, -, b, -, rfl⟩ | ⟨hp, hop, rfl⟩ | ⟨-, -, rfl⟩ | ⟨-, -, rfl⟩ | ⟨-, op, -, ⟨r, -, rfl⟩ | ⟨c, d, -, rfl⟩⟩⟩ :=
    microStep_inversion h
  iterate 8 exact .inr rfl
  · exact .inl ⟨hp, hop, rfl⟩
  iterate 4 exact .inr rfl

/-- Settles O4: the X1 of SAVE writes the one cell its word names, and stops. -/
theorem onlySaveChangesMemory : Obligations.OnlySaveChangesMemory := by
  intro s t h
  rcases microStep_mem h with ⟨hp, hop, rfl⟩ | hm
  · exact .inl ⟨addrField s.ir, hp, decode_save hop, rfl, fun b hb => read_write_other s.mem s.ac hb⟩
  · exact .inr hm

/-- Settles O27, by the cases of the micro-step. -/
theorem everyRegisterHasItsWriter : Obligations.EveryRegisterHasItsWriter := by
  intro s t h
  obtain ⟨hr, u, rfl, hf1 | hf2e | hf2 | hf3w | hf3 | hdec | hx1e | hx1 | hsave | hend | hinv | ⟨hp, op, -, hx2 | hx2f⟩⟩ :=
    microStep_inversion h
  · obtain ⟨hp, rfl⟩ := hf1
    simp [hp]
  · obtain ⟨-, -, rfl⟩ := hf2e
    simp
  · obtain ⟨hp, w, -, rfl⟩ := hf2
    simp [hp]
  · obtain ⟨-, -, rfl⟩ := hf3w
    simp
  · obtain ⟨hp, -, rfl⟩ := hf3
    simp [hp]
  · obtain ⟨hp, rfl⟩ := hdec
    simp [hp]
  · obtain ⟨-, -, -, rfl⟩ := hx1e
    simp
  · obtain ⟨hp, -, b, -, rfl⟩ := hx1
    simp [hp]
  · obtain ⟨hp, -, rfl⟩ := hsave
    simp [hp]
  · obtain ⟨hp, -, rfl⟩ := hend
    simp [hp]
  · obtain ⟨-, -, rfl⟩ := hinv
    simp
  · obtain ⟨r, -, rfl⟩ := hx2
    simp [hp, hr]
  · obtain ⟨c, d, -, rfl⟩ := hx2f
    simp [hp]

/-! ## Views that hide state, and what is blind to the hidden part -/

/-- A view changes neither which kind of answer there is nor the reason of a fault or a refusal. -/
theorem next_of_viewed {v : State → State} {r : Result} {u : State} (h : viewed v r = .next u) :
    ∃ t, r = .next t ∧ v t = u := by
  cases r with
  | next t => exact ⟨t, rfl, Host.Outcome.next.inj h⟩
  | fault => cases h
  | refused => cases h

theorem fault_of_viewed {v : State → State} {r : Result} {e : Fault} (h : viewed v r = .fault e) : r = .fault e := by
  cases r <;> cases h
  rfl

theorem refused_of_viewed {v : State → State} {r : Result} {e : Refusal} (h : viewed v r = .refused e) :
    r = .refused e := by
  cases r <;> cases h
  rfl

/-- What the update `f` leaves in the part of the state `v` shows depends on that part only. -/
def Blind (v f : State → State) : Prop := ∀ s, v (f s) = v (f (v s))

/-- What `r` answers, as `v` shows it, depends on the part of the state `v` shows only. -/
def BlindResult (v : State → State) (r : State → Result) : Prop := ∀ s, viewed v (r s) = viewed v (r (v s))

/-- A blind update takes states that look the same to states that look the same. -/
theorem Blind.agree {v f : State → State} (h : Blind v f) {s s' : State} (hs : v s = v s') : v (f s) = v (f s') :=
  calc v (f s) = v (f (v s)) := h s
    _ = v (f (v s')) := by rw [hs]
    _ = v (f s') := (h s').symm

/-- From states that look the same, a blind operation has answers that look the same. -/
theorem BlindResult.agree {v : State → State} {r : State → Result} (h : BlindResult v r) {s s' : State} (hs : v s = v s') :
    viewed v (r s) = viewed v (r s') :=
  calc viewed v (r s) = viewed v (r (v s)) := h s
    _ = viewed v (r (v s')) := by rw [hs]
    _ = viewed v (r s') := (h s').symm

/-! ## The lights and the trace drive nothing (10_state.md R26, R28) -/

/-- The two views of 10_state.md R26 and R28: one hides the lights and the trace, one the trace alone. -/
def HidesLights (v : State → State) : Prop := v = withoutLights ∨ v = withoutTrace

namespace HidesLights

variable {v : State → State} (hv : HidesLights v)

include hv

/-! Both views show the fields a micro-step reads, and neither shows the snapshots taken. -/

theorem ac_eq (s : State) : (v s).ac = s.ac := by rcases hv with rfl | rfl <;> rfl

theorem re_eq (s : State) : (v s).re = s.re := by rcases hv with rfl | rfl <;> rfl

theorem pc_eq (s : State) : (v s).pc = s.pc := by rcases hv with rfl | rfl <;> rfl

theorem mar_eq (s : State) : (v s).mar = s.mar := by rcases hv with rfl | rfl <;> rfl

theorem ir_eq (s : State) : (v s).ir = s.ir := by rcases hv with rfl | rfl <;> rfl

theorem mem_eq (s : State) : (v s).mem = s.mem := by rcases hv with rfl | rfl <;> rfl

theorem ph_eq (s : State) : (v s).ph = s.ph := by rcases hv with rfl | rfl <;> rfl

theorem run_eq (s : State) : (v s).run = s.run := by rcases hv with rfl | rfl <;> rfl

theorem record_eq (s : State) : v (record s) = v s := by rcases hv with rfl | rfl <;> rfl

/-! The updates of the micro-steps. -/

theorem blind_stop (c : Cause) : Blind v (stop c) := fun _ => by rcases hv with rfl | rfl <;> rfl

theorem blind_fetchA : Blind v fetchA := fun _ => by rcases hv with rfl | rfl <;> rfl

theorem blind_decodeStep : Blind v decodeStep := fun _ => by rcases hv with rfl | rfl <;> rfl

theorem blind_saveX1 (a : Addr) : Blind v (saveX1 a) := fun _ => by rcases hv with rfl | rfl <;> rfl

theorem blind_endX1 (a : Addr) : Blind v (endX1 a) := fun _ => by rcases hv with rfl | rfl <;> rfl

theorem blind_applyOutcome (o : AluOutcome) : Blind v (applyOutcome o) := fun _ => by
  rcases hv with rfl | rfl <;> cases o <;> rfl

theorem blind_fetchB : Blind v fetchB := by
  intro s
  have hread : (v s).mem.read (v s).mar = s.mem.read s.mar := by rw [hv.mem_eq, hv.mar_eq]
  cases h : s.mem.read s.mar with
  | none =>
    rw [fetchB_empty h, fetchB_empty (hread.trans h)]
    exact hv.blind_stop .emptyRead s
  | some w =>
    rw [fetchB_some h, fetchB_some (hread.trans h)]
    rcases hv with rfl | rfl <;> rfl

theorem blind_fetchC : Blind v fetchC := by
  intro s
  by_cases h : s.pc = 0b1111#4
  · rw [fetchC_top h, fetchC_top ((hv.pc_eq s).trans h)]
    exact hv.blind_stop .pcWrap s
  · rw [fetchC_below h, fetchC_below (by rwa [hv.pc_eq])]
    rcases hv with rfl | rfl <;> rfl

theorem blind_readOperand (a : Addr) : Blind v (readOperand a) := by
  intro s
  have hread : (v s).mem.read a = s.mem.read a := by rw [hv.mem_eq]
  cases h : s.mem.read a with
  | none =>
    rw [readOperand_empty h, readOperand_empty (hread.trans h)]
    exact hv.blind_stop .emptyRead s
  | some b =>
    rw [readOperand_some h, readOperand_some (hread.trans h)]
    rcases hv with rfl | rfl <;> rfl

/-- The ALU works on `AC` and `RE`, which both views show. -/
theorem blind_aluStep (op : Word → Word → AluOutcome) : Blind v (aluStep op) := by
  intro s
  have hlit : v { s with flags := flagsX2 s.flags } = v { v s with flags := flagsX2 (v s).flags } := by
    rcases hv with rfl | rfl <;> rfl
  have hop : op (v s).ac (v s).re = op s.ac s.re := by rw [hv.ac_eq, hv.re_eq]
  unfold aluStep
  rw [hop]
  exact (hv.blind_applyOutcome (op s.ac s.re)).agree hlit

/-! The micro-steps, their sequence, and the parts of the cycle. -/

theorem blind_microStepWith {f : State → State} (hf : Blind v f) : BlindResult v (microStepWith f) := by
  intro s
  by_cases hr : s.run = .running
  · rw [microStepWith_running f hr, microStepWith_running f ((hv.run_eq s).trans hr)]
    have hrec : v (record (f s)) = v (record (f (v s))) := by rw [hv.record_eq, hv.record_eq, hf s]
    exact congrArg Host.Outcome.next hrec
  · rw [microStepWith_not_running f hr, microStepWith_not_running f (by rwa [hv.run_eq])]

/-- The second part goes on from states that look the same, and either both run or neither does. -/
theorem blind_andThen {r k : State → Result} (hr : BlindResult v r) (hk : BlindResult v k) :
    BlindResult v (fun s => andThen (r s) k) := by
  intro s
  have h := hr s
  show viewed v (andThen (r s) k) = viewed v (andThen (r (v s)) k)
  cases hx : r s with
  | next t =>
    obtain ⟨t', hy, ht⟩ := next_of_viewed (h.symm.trans (by rw [hx]; rfl))
    have hrun : t'.run = t.run := by rw [← hv.run_eq t', ht, hv.run_eq]
    rw [hy]
    by_cases hrt : t.run = .running
    · rw [andThen_next_running k hrt, andThen_next_running k (hrun.trans hrt)]
      exact hk.agree ht.symm
    · rw [andThen_next_not_running k hrt, andThen_next_not_running k (by rwa [hrun])]
      exact congrArg Host.Outcome.next ht.symm
  | fault e => rw [fault_of_viewed (h.symm.trans (by rw [hx]; rfl))]
  | refused e => rw [refused_of_viewed (h.symm.trans (by rw [hx]; rfl))]

theorem blind_noMicroX2 : BlindResult v noMicroX2 := by
  intro s
  unfold noMicroX2
  rw [hv.run_eq]

theorem blind_microX2 : BlindResult v microX2 := by
  intro s
  unfold microX2
  rw [hv.ir_eq]
  split
  · exact hv.blind_microStepWith (hv.blind_aluStep aluAdd) s
  · exact hv.blind_microStepWith (hv.blind_aluStep aluSub) s
  · exact hv.blind_microStepWith (hv.blind_aluStep aluDiv) s
  · exact hv.blind_microStepWith (hv.blind_aluStep aluMul) s
  · exact hv.blind_noMicroX2 s
  · exact hv.blind_noMicroX2 s
  · exact hv.blind_noMicroX2 s

theorem blind_arithmetic (op : Word → Word → AluOutcome) (a : Addr) :
    BlindResult v (fun s => andThen (microStepWith (readOperand a) s) (microStepWith (aluStep op))) :=
  hv.blind_andThen (hv.blind_microStepWith (hv.blind_readOperand a)) (hv.blind_microStepWith (hv.blind_aluStep op))

theorem blind_exec : ∀ i : Instr, BlindResult v (exec i)
  | .add a => hv.blind_arithmetic aluAdd a
  | .sub a => hv.blind_arithmetic aluSub a
  | .div a => hv.blind_arithmetic aluDiv a
  | .mul a => hv.blind_arithmetic aluMul a
  | .save a => hv.blind_microStepWith (hv.blind_saveX1 a)
  | .halt a => hv.blind_microStepWith (hv.blind_endX1 a)

theorem blind_cycleFromX1 : BlindResult v cycleFromX1 := by
  intro s
  unfold cycleFromX1
  rw [hv.ir_eq]
  split
  next i _ => exact hv.blind_exec i s
  next => exact hv.blind_microStepWith (hv.blind_stop .invalidOpcode) s

theorem blind_cycleFromDec : BlindResult v cycleFromDec :=
  hv.blind_andThen (hv.blind_microStepWith hv.blind_decodeStep) hv.blind_cycleFromX1

theorem blind_cycleFromF3 : BlindResult v cycleFromF3 :=
  hv.blind_andThen (hv.blind_microStepWith hv.blind_fetchC) hv.blind_cycleFromDec

theorem blind_cycleFromF2 : BlindResult v cycleFromF2 :=
  hv.blind_andThen (hv.blind_microStepWith hv.blind_fetchB) hv.blind_cycleFromF3

theorem blind_cycleFromF1 : BlindResult v cycleFromF1 :=
  hv.blind_andThen (hv.blind_microStepWith hv.blind_fetchA) hv.blind_cycleFromF2

theorem blind_step : BlindResult v step := by
  intro s
  unfold step cycle
  rw [hv.ph_eq]
  split
  · exact hv.blind_cycleFromF1 s
  · exact hv.blind_cycleFromF2 s
  · exact hv.blind_cycleFromF3 s
  · exact hv.blind_cycleFromDec s
  · exact hv.blind_cycleFromX1 s
  · exact hv.blind_microX2 s

end HidesLights

/-- Settles O46: a step is blind to what either view hides. -/
theorem lightsAndTraceDriveNothing : Obligations.LightsAndTraceDriveNothing :=
  ⟨fun _ _ => (HidesLights.blind_step (.inl rfl)).agree, fun _ _ => (HidesLights.blind_step (.inr rfl)).agree⟩

/-! ## The old `IBR`, `IR`, `RE` and `SYM` do not matter (10_state.md R29) -/

/-- The state with another `RE` and another trace. -/
def withReAndTrace (re : Word) (trace : List Snapshot) (s : State) : State := { s with re := re, trace := trace }

/-- The view hides the trace, and with it the snapshot that is taken. -/
theorem withoutInstructionRegisters_record {s s' : State} (h : withoutTrace s = withoutTrace s') :
    withoutInstructionRegisters (record s) = withoutInstructionRegisters (record s') := by
  show withoutInstructionRegisters (withoutTrace s) = withoutInstructionRegisters (withoutTrace s')
  rw [h]

section OldRe

/-! The execute phase latches its operand into `RE` before the ALU reads it, and no other instruction reads `RE`. -/

variable {s : State} (hr : s.run = .running) (re : Word) (trace : List Snapshot)

include hr

theorem arithmetic_empty (op : Word → Word → AluOutcome) {a : Addr} (hm : s.mem.read a = none) :
    andThen (microStepWith (readOperand a) s) (microStepWith (aluStep op)) = .next (record (stop .emptyRead s)) := by
  rcases arith_cases op a s with ⟨hn, _⟩ | ⟨_, _, h⟩ | ⟨b, _, hb, _⟩
  · exact absurd hr hn
  · exact h
  · cases hm.symm.trans hb

theorem arithmetic_read (op : Word → Word → AluOutcome) {a : Addr} {b : Word} (hm : s.mem.read a = some b) :
    andThen (microStepWith (readOperand a) s) (microStepWith (aluStep op)) =
      .next (record (aluStep op (record { s with re := b, flags := flagsX1Arith s.flags, ph := .x2 }))) := by
  rcases arith_cases op a s with ⟨hn, _⟩ | ⟨_, hb, _⟩ | ⟨c, _, hc, h⟩
  · exact absurd hr hn
  · cases hm.symm.trans hb
  · cases hm.symm.trans hc
    exact h

/-- After an operand is latched the two states differ in their traces alone, and the ALU step is blind to the trace. -/
theorem arithmetic_ignores_old_re (op : Word → Word → AluOutcome) (a : Addr) :
    viewed withoutInstructionRegisters (andThen (microStepWith (readOperand a) s) (microStepWith (aluStep op))) =
      viewed withoutInstructionRegisters
        (andThen (microStepWith (readOperand a) (withReAndTrace re trace s)) (microStepWith (aluStep op))) := by
  cases hm : s.mem.read a with
  | none =>
    rw [arithmetic_empty hr op hm, arithmetic_empty (s := withReAndTrace re trace s) hr op hm]
    rfl
  | some b =>
    rw [arithmetic_read hr op hm, arithmetic_read (s := withReAndTrace re trace s) hr op hm]
    refine congrArg Host.Outcome.next (withoutInstructionRegisters_record ?_)
    exact (HidesLights.blind_aluStep (.inr rfl) op).agree rfl

theorem microStepWith_ignores_old_re {f : State → State}
    (hf : withoutInstructionRegisters (f s) = withoutInstructionRegisters (f (withReAndTrace re trace s))) :
    viewed withoutInstructionRegisters (microStepWith f s) =
      viewed withoutInstructionRegisters (microStepWith f (withReAndTrace re trace s)) := by
  rw [microStepWith_running f hr, microStepWith_running f (s := withReAndTrace re trace s) hr]
  exact congrArg Host.Outcome.next hf

theorem exec_ignores_old_re : ∀ i : Instr, viewed withoutInstructionRegisters (exec i s) =
    viewed withoutInstructionRegisters (exec i (withReAndTrace re trace s))
  | .add a => arithmetic_ignores_old_re hr re trace aluAdd a
  | .sub a => arithmetic_ignores_old_re hr re trace aluSub a
  | .div a => arithmetic_ignores_old_re hr re trace aluDiv a
  | .mul a => arithmetic_ignores_old_re hr re trace aluMul a
  | .save a => microStepWith_ignores_old_re hr re trace (f := saveX1 a) rfl
  | .halt a => microStepWith_ignores_old_re hr re trace (f := endX1 a) rfl

theorem cycleFromX1_ignores_old_re : viewed withoutInstructionRegisters (cycleFromX1 s) =
    viewed withoutInstructionRegisters (cycleFromX1 (withReAndTrace re trace s)) := by
  have hir : (withReAndTrace re trace s).ir = s.ir := rfl
  unfold cycleFromX1
  rw [hir]
  split
  next i _ => exact exec_ignores_old_re hr re trace i
  next => exact microStepWith_ignores_old_re hr re trace (f := invalidX1) rfl

end OldRe

/-- A step from F1 writes `IBR` in F2, and `IR` and `SYM` in DEC; it has read none of them by then. -/
theorem step_ignores_old_instruction_registers {s : State} (hp : s.ph = .f1) :
    viewed withoutInstructionRegisters (step s) =
      viewed withoutInstructionRegisters (step (withoutInstructionRegisters s)) := by
  let s' : State := withoutInstructionRegisters s
  by_cases hr : s.run = .running
  · cases hm : s.mem.read s.pc with
    | none =>
      rw [step_fetch_empty hr hp hm, step_fetch_empty (s := s') hr hp hm]
      rfl
    | some w =>
      by_cases hpc : s.pc = 0b1111#4
      · rw [step_fetch_wrap hr hp hm hpc, step_fetch_wrap (s := s') hr hp hm hpc]
        rfl
      · rw [step_fetch hr hp hm hpc, step_fetch (s := s') hr hp hm hpc]
        exact cycleFromX1_ignores_old_re (s := afterDec s w) hr s'.re (afterDec s' w).trace
  · rw [step_not_running hr, step_not_running (s := s') hr]

/-- Settles O47: each of the two steps looks like the step of the state both look like. -/
theorem oldInstructionRegistersDoNotMatter : Obligations.OldInstructionRegistersDoNotMatter := by
  intro s s' hp hs
  have hp' : s'.ph = .f1 := (congrArg State.ph hs).symm.trans hp
  calc viewed withoutInstructionRegisters (step s)
    _ = viewed withoutInstructionRegisters (step (withoutInstructionRegisters s)) :=
      step_ignores_old_instruction_registers hp
    _ = viewed withoutInstructionRegisters (step (withoutInstructionRegisters s')) := by rw [hs]
    _ = viewed withoutInstructionRegisters (step s') := (step_ignores_old_instruction_registers hp').symm

end Sys2Proof.Machine

/-! Statements of 20_memory.md: the memory write, and who uses it. -/

namespace Sys2Proof.Machine

/-- The address of a decoded SAVE is the low four bits of its word (30_encoding.md R60). -/
theorem addr_of_decode_save {w : Word} {a : Addr} (h : decode w = .ok (.save a)) : a = addrField w := by
  rcases decode_cases w with ⟨-, hd⟩ | ⟨-, hd⟩ | ⟨-, hd⟩ | ⟨-, hd⟩ | ⟨-, hd⟩ | ⟨-, hd⟩ | ⟨-, hd⟩ <;>
    cases h.symm.trans hd
  rfl

/-- At X1 the micro-step is that of the instruction in `IR` (42_control_cycle.md R140). -/
theorem microStep_x1 {s : State} {i : Instr} (hp : s.ph = .x1) (hd : decode s.ir = .ok i) :
    microStep s = microStepWith (executeX1 i) s := by
  simp only [microStep, hp, microX1, hd]

/-- On an idle core the host's operation takes effect (42_control_cycle.md R135). -/
theorem whileIdle_idle (f : State → State) {s : State} (h : s.run = .idle) : whileIdle f s = .next (f s) := if_pos h

/-- The snapshot taken by a micro-step is the last of the trace and shows the memory after it (42_control_cycle.md R144). -/
theorem record_trace_shows_mem (s : State) : ∃ l x, (record s).trace = l ++ [x] ∧ x.mem = (record s).mem :=
  ⟨s.trace, s.snapshot, rfl, rfl⟩

/-- Settles O3: the rules of a read after a write, the X1 of SAVE recorded, and `HostWrite` on an idle core. -/
theorem memWriteSetsOneCell : Obligations.MemWriteSetsOneCell := by
  refine ⟨fun m a v => ⟨read_write_same m a v, fun b hb => read_write_other m v hb⟩, ?_, ?_⟩
  · intro s t a hp hd h
    rw [microStep_x1 hp hd] at h
    obtain ⟨-, rfl⟩ := microStepWith_next h
    exact ⟨addr_of_decode_save hd, rfl, record_trace_shows_mem (saveX1 a s)⟩
  · exact fun s a v hidle => whileIdle_idle (fun s => { s with mem := s.mem.write a v }) hidle

end Sys2Proof.Machine

/-! Statements of 30_encoding.md: the instruction word and its invalid opcodes, the loader and its literals. -/

namespace Sys2Proof.Machine

open Sys2Proof.Safety

/-! ## The instruction word (30_encoding.md R60 to R63) -/

/-- A word is its two fields put together again. -/
@[simp] theorem instrWord_fields (w : Word) : instrWord (opcodeField w) (addrField w) = w := by
  unfold instrWord opcodeField addrField
  rw [BitVec.extractLsb'_append_extractLsb'_eq_extractLsb' (show 4 = 0 + 4 from rfl)]
  exact BitVec.extractLsb'_eq_self

/-- An instruction is encoded so that the decoder reads back its opcode and its address. -/
theorem decode_encode (i : Instr) : decode (encode i) = .ok i := by
  cases i <;>
    simp [decode, encode, Instr.opcode, Instr.addr, Laws.Fields.opcodeField_instrWord, Laws.Fields.addrField_instrWord]

/-- The opcode and the address of a decoded instruction are the two fields of its word. -/
theorem fields_of_decode {w : Word} {i : Instr} (h : decode w = .ok i) : i.opcode = opcodeField w ∧ i.addr = addrField w := by
  rcases decode_cases w with ⟨hn, hd⟩ | ⟨hn, hd⟩ | ⟨hn, hd⟩ | ⟨hn, hd⟩ | ⟨hn, hd⟩ | ⟨hn, hd⟩ | ⟨-, hd⟩ <;>
    cases h.symm.trans hd
  all_goals exact ⟨BitVec.eq_of_toNat_eq hn.symm, rfl⟩

/-- A word that decodes is the word of what it decodes to. -/
theorem encode_of_decode {w : Word} {i : Instr} (h : decode w = .ok i) : encode i = w := by
  obtain ⟨hop, haddr⟩ := fields_of_decode h
  rw [encode, hop, haddr, instrWord_fields]

/-- The decoder rejects exactly the opcodes from `0110` on (30_encoding.md R62). -/
theorem decode_error_iff (w : Word) : (∃ e, decode w = .error e) ↔ 6 ≤ (opcodeField w).toNat := by
  rcases decode_cases w with ⟨hn, hd⟩ | ⟨hn, hd⟩ | ⟨hn, hd⟩ | ⟨hn, hd⟩ | ⟨hn, hd⟩ | ⟨hn, hd⟩ | ⟨hn, hd⟩ <;> simp [hn, hd]

/-- Settles O2: the fields of a word make it up, and by cases of the opcode the decoder reads them as the encoder wrote them. -/
theorem decodeAndEncodeAgree : Obligations.DecodeAndEncodeAgree :=
  ⟨fun i _ => decode_encode i, fun _ _ h => encode_of_decode h, decode_error_iff⟩

/-! ## Invalid opcodes (30_encoding.md R62, 41_store_halt.md R124) -/

/-- In X1 a step is the execute phase of the word in `IR` (42_control_cycle.md R142). -/
theorem step_x1 {s : State} (hp : s.ph = .x1) : step s = cycleFromX1 s := by
  simp only [step, cycle, hp]

/-- A rejected word in `IR` makes X1, and with it the cycle, the stop of an invalid opcode. -/
theorem x1_of_decode_error {s : State} {e : DecodeError} (hr : s.run = .running) (hp : s.ph = .x1)
    (hd : decode s.ir = .error e) :
    step s = .next (record (invalidX1 s)) ∧ microStep s = .next (record (invalidX1 s)) := by
  constructor
  · simp only [step_x1 hp, cycleFromX1, hd, execInvalid, microStepWith_running _ hr]
  · simp only [microStep, hp, microX1, hd, microStepWith_running _ hr]

/-- Settles O18: the decoder rejects the word, and the stop of an invalid opcode writes `RUN`, `CAUSE` and the trace only. -/
theorem invalidOpcodeStopsTheRun : Obligations.InvalidOpcodeStopsTheRun := by
  intro s hr hp hop
  obtain ⟨e, hd⟩ := (decode_error_iff s.ir).2 hop
  obtain ⟨hstep, hmicro⟩ := x1_of_decode_error hr hp hd
  exact ⟨_, hstep, hmicro, rfl⟩

/-! ## The tests of a token (30_encoding.md R70 to R72) -/

/-- The six operation tokens and the opcode of each (30_encoding.md R72). -/
theorem operationToken_eq_some_iff (t : Text) (op : Opcode) : operationToken t = some op ↔
    (t, op) ∈ [(['+'], 0b0000#4), (['-'], 0b0001#4), (['/'], 0b0010#4), (['*'], 0b0011#4), (['S', 'A', 'V', 'E'], 0b0100#4),
      (['E', 'N', 'D'], 0b0101#4)] := by
  unfold operationToken
  split_ifs <;> simp_all [eq_comm (b := op)]

theorem operationToken_eq_none_iff (t : Text) : operationToken t = none ↔
    t ∉ [['+'], ['-'], ['/'], ['*'], ['S', 'A', 'V', 'E'], ['E', 'N', 'D']] := by
  unfold operationToken
  split_ifs <;> simp_all

theorem checkToken_operation {t : Text} {op : Opcode} (h : operationToken t = some op) :
    checkToken t = .ok (.operation op) := by
  simp only [checkToken, h]

theorem checkToken_literal {t : Text} {l : Literal} (h : parseLiteral t = some l) :
    checkToken t = if literalCode l > Config.maxCode then .error .overflow else .ok (.literal l) := by
  simp only [checkToken, operationToken_of_literal h, h]

theorem checkToken_neither {t : Text} (ho : operationToken t = none) (hl : parseLiteral t = none) :
    checkToken t = if isNegativeLiteral t then .error .negative else .error .invalidInput := by
  simp only [checkToken, ho, hl]

/-- An accepted token is one of the six operations, or a literal whose code fits a data word (30_encoding.md R71). -/
theorem checkToken_ok {t : Text} {k : LoaderToken} (h : checkToken t = .ok k) :
    (∃ op, operationToken t = some op ∧ k = .operation op) ∨
    ∃ l, parseLiteral t = some l ∧ literalCode l ≤ 255 ∧ k = .literal l := by
  cases ho : operationToken t with
  | some op =>
    cases (checkToken_operation ho).symm.trans h
    exact .inl ⟨op, rfl, rfl⟩
  | none =>
    cases hl : parseLiteral t with
    | some l =>
      rw [checkToken_literal hl] at h
      split at h
      next => cases h
      next hle =>
        cases h
        exact .inr ⟨l, rfl, Nat.le_of_not_lt hle, rfl⟩
    | none =>
      rw [checkToken_neither ho hl] at h
      split at h <;> cases h

/-- Only the six operation tokens are accepted as operations. -/
theorem checkToken_eq_operation_iff (t : Text) (op : Opcode) :
    checkToken t = .ok (.operation op) ↔ operationToken t = some op := by
  refine ⟨fun h => ?_, checkToken_operation⟩
  rcases checkToken_ok h with ⟨op', ho, hk⟩ | ⟨l, -, -, hk⟩ <;> cases hk
  exact ho

/-- A literal is accepted only when its code fits a data word. -/
theorem literalCode_le_of_checkToken {t : Text} {l : Literal} (h : checkToken t = .ok (.literal l)) : literalCode l ≤ 255 := by
  rcases checkToken_ok h with ⟨op, -, hk⟩ | ⟨l', -, hle, hk⟩ <;> cases hk
  exact hle

/-- A minus before a literal is NEGATIVE; a lone minus would be an operator, but the empty text is no literal. -/
theorem checkToken_minus_literal {t : Text} {l : Literal} (h : parseLiteral t = some l) :
    checkToken ('-' :: t) = .error .negative := by
  have hne : t ≠ [] := by
    rintro rfl
    cases h
  have ho : operationToken ('-' :: t) = none := (operationToken_eq_none_iff _).2 (by simp [hne])
  have hneg : isNegativeLiteral ('-' :: t) = true := by simp [isNegativeLiteral, h]
  rw [checkToken_neither ho (parseLiteral_minus t), if_pos hneg]

theorem isNegativeLiteral_eq_false {t : Text} (h : ∀ r, t = '-' :: r → parseLiteral r = none) :
    isNegativeLiteral t = false := by
  cases t with
  | nil => rfl
  | cons c r =>
    by_cases hc : c = '-'
    · simp [isNegativeLiteral, h r (by rw [hc])]
    · simp [isNegativeLiteral, hc]

/-- Settles O51, from what `checkToken` answers for an operation, a literal and neither. -/
theorem tokenTests : Obligations.TokenTests := by
  refine ⟨fun t op => ?_, fun t l hl => ⟨fun hle => ?_, fun hlt => ?_, ?_⟩, fun t hl hneg ho => ?_⟩
  · exact (checkToken_eq_operation_iff t op).trans (operationToken_eq_some_iff t op)
  · exact (checkToken_literal hl).trans (if_neg (Nat.not_lt.2 hle))
  · exact (checkToken_literal hl).trans (if_pos hlt)
  · exact checkToken_minus_literal hl
  · rw [checkToken_neither ((operationToken_eq_none_iff t).2 ho) hl, isNegativeLiteral_eq_false hneg]
    rfl

/-! ## The code of a number (30_encoding.md R66) -/

/-- The integer formula of the rounded code is the rounding of the rational number. -/
theorem enc_eq_encQ (num : Nat) {den : Nat} (h : 0 < den) : enc num den = encQ ((num : ℚ) / den) := by
  have hq : (2 : ℚ) * ((num : ℚ) / den) + 1 / 2 = ((4 * num + den : ℕ) : ℚ) / ((2 * den : ℕ) : ℚ) := by
    have hden : (den : ℚ) ≠ 0 := Nat.cast_ne_zero.2 h.ne'
    push_cast
    field_simp
    ring
  rw [encQ, hq, Nat.floor_div_eq_div, enc]

/-- The code of a literal is that of the number it denotes (30_encoding.md R72). -/
theorem literalCode_eq_encQ (l : Literal) : literalCode l = encQ ((literalNum l : ℚ) / literalDen l) :=
  enc_eq_encQ _ (Nat.pow_pos (by norm_num))

theorem literalCode_eq_floor (l : Literal) :
    (literalCode l : ℤ) = ⌊2 * ((literalNum l : ℚ) / literalDen l) + 1 / 2⌋ := by
  rw [literalCode_eq_encQ, encQ, Int.natCast_floor_eq_floor (by positivity)]

/-! ## The layout of a load (30_encoding.md R73) -/

/-- Every literal of an accepted token list fits a data word. -/
theorem literalCode_le_of_checkTokens : ∀ {ts : List Text} {ks : List LoaderToken}, checkTokens ts = .ok ks →
    ∀ {l : Literal}, .literal l ∈ ks → literalCode l ≤ 255
  | [], _, h, l, hl => by
    cases h
    cases hl
  | t :: ts, _, h, l, hl => by
    unfold checkTokens at h
    split at h
    next => cases h
    next k hk =>
      split at h
      next => cases h
      next ks hks =>
        cases h
        rcases List.mem_cons.1 hl with rfl | hl
        · exact literalCode_le_of_checkToken hk
        · exact literalCode_le_of_checkTokens hks hl

/-- Settles O49: `writeTokens_read` from cell 0; an accepted literal's code fits, so its word keeps it whole. -/
theorem loadLaysOutTheTokens : Obligations.LoadLaysOutTheTokens := by
  intro ts ks s hidle hc hd
  obtain ⟨-, hlen, -⟩ := loadDefined_bounds hd
  obtain ⟨hwritten, hkept⟩ := writeTokens_read (operationCount ks) ks 0 s.mem (by omega)
  simp only [Nat.zero_add] at hwritten hkept
  refine ⟨_, load_defined hidle hc hd, fun i op hi => hwritten i _ hi, fun i l hi => ⟨_, hwritten i _ hi, ?_⟩,
    fun a ha => hkept a (.inr ha), rfl⟩
  have hle := literalCode_le_of_checkTokens hc (List.mem_of_getElem? hi)
  rw [tokenWord, BitVec.toNat_ofNat, Nat.mod_eq_of_lt (by omega), literalCode_eq_floor]

/-! ## Literals (30_encoding.md R70) -/

/-- A numeral is a text of characters the parser reads as digits. -/
theorem isNumeral_iff (t : Text) : isNumeral t ↔ t ≠ [] ∧ ∀ c ∈ t, (digitValue c).isSome := by
  simp [isNumeral, mem_decimalDigits]

/-- The literal texts are the numerals, and two numerals around a point. -/
theorem isLiteralText_iff (t : Text) :
    isLiteralText t ↔ isNumeral t ∨ ∃ ds fs, t = ds ++ '.' :: fs ∧ isNumeral ds ∧ isNumeral fs := by
  refine or_congr_right ⟨?_, ?_⟩
  · rintro ⟨n, hn, hds, hpt, hfs⟩
    obtain ⟨_, hget⟩ := List.getElem?_eq_some_iff.1 hpt
    exact ⟨t.take n, t.drop (n + 1), by rw [← hget, List.getElem_cons_drop, List.take_append_drop], hds, hfs⟩
  · rintro ⟨ds, fs, rfl, hds, hfs⟩
    exact ⟨ds.length, by simp, by simpa using hds, by simp, by simpa using hfs⟩

/-- The digits of a numeral, of which there is one at least. -/
theorem digits_of_isNumeral {t : Text} (h : isNumeral t) : ∃ d ds, t.filterMap digitValue = d :: ds := by
  obtain ⟨hne, hdigits⟩ := (isNumeral_iff t).1 h
  obtain ⟨c, cs, rfl⟩ := List.exists_cons_of_ne_nil hne
  obtain ⟨d, hd⟩ := Option.isSome_iff_exists.1 (hdigits c (by simp))
  exact ⟨d, _, List.filterMap_cons_some hd⟩

/-- What `spanDigits` reads is the digits of a part of the text, which is empty or a numeral. -/
theorem spanDigits_cases : ∀ t : Text, spanDigits t = ([], t) ∨
    ∃ ds rest, t = ds ++ rest ∧ isNumeral ds ∧ spanDigits t = (ds.filterMap digitValue, rest)
  | [] => .inl rfl
  | c :: cs => by
    cases hc : digitValue c with
    | none => exact .inl (by simp [spanDigits, hc])
    | some d =>
      right
      rcases spanDigits_cases cs with h | ⟨ds, rest, rfl, hds, h⟩
      · exact ⟨[c], cs, rfl, (isNumeral_iff _).2 (by simp [hc]), by simp [spanDigits, hc, h]⟩
      · have hdigits := ((isNumeral_iff ds).1 hds).2
        exact ⟨c :: ds, rest, rfl, (isNumeral_iff _).2 (by simpa [hc] using hdigits), by simp [spanDigits, hc, h]⟩

/-- A numeral followed by a character that is no digit is read to its end. -/
theorem spanDigits_numeral {ds rest : Text} (h : isNumeral ds) (hrest : ∀ c r, rest = c :: r → digitValue c = none) :
    spanDigits (ds ++ rest) = (ds.filterMap digitValue, rest) :=
  spanDigits_append ds rest ((isNumeral_iff ds).1 h).2 hrest

theorem parseLiteral_numeral {t : Text} (h : isNumeral t) : parseLiteral t = some ⟨t.filterMap digitValue, []⟩ := by
  have hspan : spanDigits t = (t.filterMap digitValue, []) := by
    simpa using spanDigits_numeral h (rest := []) (by simp)
  obtain ⟨d, ds, hd⟩ := digits_of_isNumeral h
  rw [parseLiteral, hspan, hd]

theorem parseLiteral_point {ds fs : Text} (hds : isNumeral ds) (hfs : isNumeral fs) :
    parseLiteral (ds ++ '.' :: fs) = some ⟨ds.filterMap digitValue, fs.filterMap digitValue⟩ := by
  have hspan : spanDigits (ds ++ '.' :: fs) = (ds.filterMap digitValue, '.' :: fs) :=
    spanDigits_numeral hds (by rintro c r h; cases h; rfl)
  have hspan' : spanDigits fs = (fs.filterMap digitValue, []) := by
    simpa using spanDigits_numeral hfs (rest := []) (by simp)
  obtain ⟨d, ds', hd⟩ := digits_of_isNumeral hds
  obtain ⟨f, fs', hf⟩ := digits_of_isNumeral hfs
  simp only [parseLiteral, hspan, hspan', hd, hf, if_true]

/-- What the parser reads is a numeral, or two numerals around a point. -/
theorem numerals_of_parseLiteral {t : Text} {l : Literal} (h : parseLiteral t = some l) :
    isNumeral t ∨ ∃ ds fs, t = ds ++ '.' :: fs ∧ isNumeral ds ∧ isNumeral fs := by
  unfold parseLiteral at h
  rcases spanDigits_cases t with hspan | ⟨ds, rest, rfl, hds, hspan⟩ <;> rw [hspan] at h
  · cases h
  · obtain ⟨d, ds', hd⟩ := digits_of_isNumeral hds
    rw [hd] at h
    cases rest with
    | nil => exact .inl (by simpa using hds)
    | cons c rest =>
      right
      dsimp only at h
      split at h
      next hc =>
        subst hc
        rcases spanDigits_cases rest with hspan' | ⟨fs, rest', rfl, hfs, hspan'⟩ <;> rw [hspan'] at h
        · cases h
        · obtain ⟨f, fs', hf⟩ := digits_of_isNumeral hfs
          rw [hf] at h
          cases rest' with
          | nil => exact ⟨ds, fs, by simp, hds, hfs⟩
          | cons => cases h
      next => cases h

/-- The parser reads exactly the literal grammar (30_encoding.md R70). -/
theorem exists_parseLiteral_iff (t : Text) : (∃ l, parseLiteral t = some l) ↔ isLiteralText t := by
  rw [isLiteralText_iff]
  constructor
  · rintro ⟨l, h⟩
    exact numerals_of_parseLiteral h
  · rintro (h | ⟨ds, fs, rfl, hds, hfs⟩)
    · exact ⟨_, parseLiteral_numeral h⟩
    · exact ⟨_, parseLiteral_point hds hfs⟩

/-! ## The number of a literal (30_encoding.md R66, R72) -/

@[simp] theorem digitsValue_nil : digitsValue [] = 0 := rfl

/-- The number of a list of digits is the library's, whose lists begin with the least significant digit. -/
theorem digitsValue_eq_ofDigits (ds : List Nat) : digitsValue ds = Nat.ofDigits 10 ds.reverse := by
  rw [digitsValue, Nat.ofDigits_eq_foldr, List.foldr_reverse]
  simp only [Nat.cast_id, Nat.add_comm]

theorem digitsValue_append (ds fs : List Nat) : digitsValue (ds ++ fs) = digitsValue ds * 10 ^ fs.length + digitsValue fs := by
  simp only [digitsValue_eq_ofDigits, List.reverse_append, Nat.ofDigits_append, List.length_reverse]
  ring

@[simp] theorem digitsValue_map_val (ds : List (Fin 10)) : digitsValue (ds.map Fin.val) = numeralValue ds := by
  rw [digitsValue_eq_ofDigits, numeralValue, List.map_reverse]

/-- The number of a literal is that of the digits before the point plus that of the digits after it over the power of ten. -/
theorem literalNum_div_literalDen (ds fs : List Nat) :
    (literalNum ⟨ds, fs⟩ : ℚ) / literalDen ⟨ds, fs⟩ = digitsValue ds + (digitsValue fs : ℚ) / 10 ^ fs.length := by
  rw [literalNum, literalDen, digitsValue_append]
  push_cast
  field_simp

/-- A literal that denotes `q` has the code of `q`. -/
theorem literalCode_of_number {l : Literal} {q : ℚ} (h : (literalNum l : ℚ) / literalDen l = q) :
    (literalNum l : ℚ) / literalDen l = q ∧ literalCode l = encQ q :=
  ⟨h, by rw [literalCode_eq_encQ, h]⟩

/-- The character of a digit is read as that digit. -/
theorem digitValue_digit (d : Fin 10) : digitValue (decimalDigits[d.val]?.getD '0') = some d.val := by
  decide +revert

@[simp] theorem digitText_filterMap (ds : List (Fin 10)) : (digitText ds).filterMap digitValue = ds.map Fin.val := by
  simp [digitText, List.filterMap_map, digitValue_digit]

theorem digitText_isNumeral {ds : List (Fin 10)} (h : ds ≠ []) : isNumeral (digitText ds) :=
  (isNumeral_iff _).2 ⟨by simpa [digitText] using h, by simp [digitText, digitValue_digit]⟩

/-- Settles O54: the parser reads the grammar, and the digits it reads denote the literal's number, which is then rounded. -/
theorem literalsAreReadAsNumbers : Obligations.LiteralsAreReadAsNumbers := by
  refine ⟨exists_parseLiteral_iff, fun ds hds => ⟨?_, fun fs hfs => ?_⟩⟩
  · refine ⟨_, parseLiteral_numeral (digitText_isNumeral hds), literalCode_of_number ?_⟩
    simp [literalNum_div_literalDen]
  · refine ⟨_, parseLiteral_point (digitText_isNumeral hds) (digitText_isNumeral hfs), literalCode_of_number ?_⟩
    simp [literalNum_div_literalDen]

end Sys2Proof.Machine

/-! Statements of 40_alu_arithmetic.md: the ALU's addition and subtraction, and the instructions ADD, SUB, DIV and MUL. -/

namespace Sys2Proof.Machine

open Sys2Proof.Safety

/-! ## The end of the ALU's pipeline (40_alu_arithmetic.md R91) -/

theorem encoded_success {r : Nat} (h : r ≤ 255) : ∃ w : Word, encoded r = .success w ∧ w.toNat = r := by
  have hfits : ¬ r > Config.maxCode := Nat.not_lt.2 h
  exact ⟨BitVec.ofNat 8 r, if_neg hfits, by rw [BitVec.toNat_ofNat, Nat.mod_eq_of_lt (Nat.lt_succ_of_le h)]⟩

theorem encoded_overflow {r : Nat} (h : 255 < r) : encoded r = .overflow := if_pos h

/-! ## The four operations (40_alu_arithmetic.md R92 to R95) -/

theorem aluSub_of_le {a b : Word} (h : b.toNat ≤ a.toNat) : aluSub a b = encoded (a.toNat - b.toNat) :=
  if_neg (Nat.not_lt.2 h)

theorem aluSub_of_lt {a b : Word} (h : a.toNat < b.toNat) : aluSub a b = .underflow := if_pos h

theorem aluDiv_zero {a b : Word} (h : b.toNat = 0) : aluDiv a b = .divideByZero := if_pos h

theorem aluDiv_nonzero {a b : Word} (h : b.toNat ≠ 0) :
    aluDiv a b = encoded ((4 * a.toNat + b.toNat) / (2 * b.toNat)) := if_neg h

/-- The product of two codes counts quarters, which round to halves with ties going up (40_alu_arithmetic.md R94). -/
theorem aluMul_eq (a b : Word) : aluMul a b = encoded ((a.toNat * b.toNat + 1) / 2) := by
  have hround : ∀ n : Nat, (4 * n + 4) / (2 * 4) = (n + 1) / 2 := fun n => by omega
  exact congrArg encoded (hround _)

/-- A difference of two words is no larger than the first, so it always fits. -/
theorem aluSub_success {a b : Word} (h : b.toNat ≤ a.toNat) :
    ∃ r : Word, aluSub a b = .success r ∧ r.toNat = a.toNat - b.toNat := by
  have hlt := a.isLt
  rw [aluSub_of_le h]
  exact encoded_success (by omega)

/-! ## The numbers behind the codes (40_alu_arithmetic.md R92, R93) -/

/-- A whole number of halves is its own code. -/
theorem encQ_half (n : Nat) : encQ ((n : ℚ) / 2) = n := by
  rw [encQ, Nat.floor_eq_iff (by positivity)]
  constructor <;> linarith

theorem val_add (a b : Word) : val a + val b = ((a.toNat + b.toNat : ℕ) : ℚ) / 2 := by
  rw [val, val]
  push_cast
  ring

theorem val_sub (a b : Word) : val a - val b = ((a.toNat - b.toNat : ℤ) : ℚ) / 2 := by
  rw [val, val]
  push_cast
  ring

theorem val_sub_neg_iff (a b : Word) : val a - val b < 0 ↔ a.toNat < b.toNat := by
  rw [val, val, sub_neg, div_lt_div_iff_of_pos_right two_pos, Nat.cast_lt]

/-- Rounding a whole number of halves changes nothing, so the sign is kept. -/
theorem floor_code_sub (a b : Word) : ⌊2 * (val a - val b) + 1 / 2⌋ = (a.toNat - b.toNat : ℤ) := by
  rw [val_sub, Int.floor_eq_iff]
  constructor <;> linarith

/-- A word whose code is the difference of two codes stands for the difference of their numbers. -/
theorem val_of_toNat_sub {a b r : Word} (h : b.toNat ≤ a.toNat) (hr : r.toNat = a.toNat - b.toNat) :
    val r = val a - val b := by
  rw [val_sub, val, hr]
  push_cast [h]
  rfl

/-- Settles O5: two whole numbers of halves add up to one, and the pipeline's end tests its code. -/
theorem aluAddition : Obligations.AluAddition := by
  intro a b
  refine ⟨?_, encoded_overflow, encoded_success⟩
  rw [val_add, encQ_half]

/-- Settles O6: the sign of the difference is that of the codes, before and after rounding, and the rest always fits. -/
theorem aluSubtraction : Obligations.AluSubtraction := by
  intro a b
  refine ⟨val_sub_neg_iff a b, ?_, aluSub_of_lt, fun h => ?_⟩
  · rw [floor_code_sub, val_sub_neg_iff, sub_neg, Nat.cast_lt]
  · obtain ⟨r, hop, hr⟩ := aluSub_success h
    exact ⟨r, hop, hr, val_of_toNat_sub h hr⟩

/-! ## The execute phase of an arithmetic instruction (40_alu_arithmetic.md R98, R104, R105) -/

/-- The execute phase of an arithmetic instruction with the ALU operation `op`: X1, and X2 unless X1 stopped the run. -/
def execArith (op : Word → Word → AluOutcome) (a : Addr) (s : State) : Result :=
  andThen (microStepWith (readOperand a) s) (microStepWith (aluStep op))

/-- How the ALU's failures are shown: each outcome with its cause and its display (40_alu_arithmetic.md R98). -/
def aluFailures : List (AluOutcome × Cause × Display) :=
  [(.overflow, .overflow, .overflow), (.underflow, .underflow, .underflow), (.divideByZero, .divideByZero, .undefined)]

/-- X2 when the ALU fails. -/
theorem aluStep_failure {op : Word → Word → AluOutcome} {s : State} {c : Cause} {d : Display}
    (h : (op s.ac s.re, c, d) ∈ aluFailures) :
    aluStep op s = { s with flags := flagsX2 s.flags, disp := d, run := .stopped, cause := c } := by
  simp only [aluFailures, List.mem_cons, Prod.mk.injEq, List.not_mem_nil, or_false] at h
  rcases h with ⟨ho, rfl, rfl⟩ | ⟨ho, rfl, rfl⟩ | ⟨ho, rfl, rfl⟩ <;> simp [aluStep, applyOutcome, ho, stop]

/-- The state after the X1 of an arithmetic instruction whose operand cell holds `b`. -/
def afterX1 (b : Word) (s : State) : State := record { s with re := b, flags := flagsX1Arith s.flags, ph := .x2 }

section Readable

variable {op : Word → Word → AluOutcome} {s : State} {a : Addr} {b : Word}

/-- X1 latches the operand and X2 the result; each leaves one snapshot. -/
theorem arithSucceeds_of_success {r : Word} (hr : s.run = .running) (h : op s.ac b = .success r) :
    ArithSucceeds s (record (aluStep op (afterX1 b s))) b r.toNat := by
  rw [aluStep_success (s := afterX1 b s) h]
  exact { ac := rfl, re := rfl, ph := rfl, run := hr, flags := rfl, trace := ⟨_, List.append_assoc _ _ _⟩, pc := rfl,
          mar := rfl, ibr := rfl, ir := rfl, mem := rfl, cause := rfl, disp := rfl, sym := rfl, memLit := rfl }

/-- X1 latches the operand and X2 stops the run; each leaves one snapshot. -/
theorem arithFails_of_failure {c : Cause} {d : Display} (h : (op s.ac b, c, d) ∈ aluFailures) :
    ArithFails s (record (aluStep op (afterX1 b s))) b c d := by
  rw [aluStep_failure (s := afterX1 b s) h]
  exact { ac := rfl, re := rfl, ph := rfl, run := rfl, cause := rfl, disp := rfl, flags := rfl,
          trace := ⟨_, List.append_assoc _ _ _⟩, pc := rfl, mar := rfl, ibr := rfl, ir := rfl, mem := rfl, sym := rfl,
          memLit := rfl }

variable (hr : s.run = .running) (hm : s.mem.read a = some b)

include hr hm

theorem execArith_succeeds {n : Nat} (h : ∃ r : Word, op s.ac b = .success r ∧ r.toNat = n) :
    ∃ t, execArith op a s = .next t ∧ ArithSucceeds s t b n := by
  obtain ⟨r, hop, rfl⟩ := h
  exact ⟨_, arithmetic_read hr op hm, arithSucceeds_of_success hr hop⟩

theorem execArith_fails {o : AluOutcome} {c : Cause} {d : Display} (h : op s.ac b = o) (hf : (o, c, d) ∈ aluFailures) :
    ∃ t, execArith op a s = .next t ∧ ArithFails s t b c d :=
  ⟨_, arithmetic_read hr op hm, arithFails_of_failure (h ▸ hf)⟩

end Readable

/-- Settles O10: the code of the sum decides. -/
theorem addExecutes : Obligations.AddExecutes := fun _ _ _ hr hm =>
  ⟨fun h => execArith_succeeds (op := aluAdd) hr hm (encoded_success h),
   fun h => execArith_fails (op := aluAdd) hr hm (encoded_overflow h) (by decide)⟩

/-- Settles O11: the order of the two codes decides. -/
theorem subExecutes : Obligations.SubExecutes := fun _ _ _ hr hm =>
  ⟨fun h => execArith_succeeds hr hm (aluSub_success h),
   fun h => execArith_fails hr hm (aluSub_of_lt h) (by decide)⟩

/-- Settles O12: the zero divisor comes first, then the code of the quotient decides. -/
theorem divExecutes : Obligations.DivExecutes := by
  intro s a b hr hm
  refine ⟨fun hb h => ?_, fun hb => ?_, fun hb h => ?_⟩
  · exact execArith_succeeds (op := aluDiv) hr hm (aluDiv_nonzero hb ▸ encoded_success h)
  · exact execArith_fails hr hm (aluDiv_zero hb) (by decide)
  · exact execArith_fails hr hm ((aluDiv_nonzero hb).trans (encoded_overflow h)) (by decide)

/-- Settles O13: the code of the product decides. -/
theorem mulExecutes : Obligations.MulExecutes := by
  intro s a b hr hm
  refine ⟨fun h => ?_, fun h => ?_⟩
  · exact execArith_succeeds (op := aluMul) hr hm (aluMul_eq s.ac b ▸ encoded_success h)
  · exact execArith_fails hr hm ((aluMul_eq s.ac b).trans (encoded_overflow h)) (by decide)

/-! ## What the four leave unchanged -/

/-- The inversion of an arithmetic instruction: an `EMPTY` operand stops it in X1, otherwise the ALU succeeds or fails. -/
theorem execArith_next {op : Word → Word → AluOutcome} {a : Addr} {s t : State} (h : execArith op a s = .next t) :
    (s.mem.read a = none ∧ t = record (stop .emptyRead s)) ∨
    ∃ b, s.mem.read a = some b ∧ ((∃ n, ArithSucceeds s t b n) ∨ ∃ c d, ArithFails s t b c d) := by
  rcases arith_cases op a s with ⟨-, hs⟩ | ⟨-, hm, hs⟩ | ⟨b, hr, hm, hs⟩ <;> cases h.symm.trans hs
  · exact .inl ⟨hm, rfl⟩
  · refine .inr ⟨b, hm, ?_⟩
    rcases aluStep_cases op (afterX1 b s) with ⟨r, hop, -⟩ | ⟨c, d, hf, -⟩
    · exact .inl ⟨_, arithSucceeds_of_success hr hop⟩
    · exact .inr ⟨c, d, arithFails_of_failure hf⟩

/-- The four instructions are one execute phase with four ALU operations (40_alu_arithmetic.md R100 to R103). -/
theorem exec_eq_execArith {i : Instr} {a : Addr} (hi : i ∈ [Instr.add a, Instr.sub a, Instr.div a, Instr.mul a]) :
    ∃ op, exec i = execArith op a := by
  simp only [List.mem_cons, List.not_mem_nil, or_false] at hi
  rcases hi with rfl | rfl | rfl | rfl
  exacts [⟨aluAdd, rfl⟩, ⟨aluSub, rfl⟩, ⟨aluDiv, rfl⟩, ⟨aluMul, rfl⟩]

/-- Settles O19, by the three ways an arithmetic instruction ends. -/
theorem arithmeticFrame : Obligations.ArithmeticFrame := by
  intro s t a i hi h
  obtain ⟨op, hop⟩ := exec_eq_execArith hi
  rw [hop] at h
  rcases execArith_next h with ⟨hm, rfl⟩ | ⟨b, hm, ⟨n, ht⟩ | ⟨c, d, ht⟩⟩
  · simp [hm]
  · obtain ⟨x1, htrace⟩ := ht.trace
    simp [hm, ht.mem, ht.pc, ht.mar, ht.ibr, ht.ir, ht.sym, ht.memLit, ht.re, ht.run, ht.disp, ht.cause, ht.flags, htrace]
  · obtain ⟨x1, htrace⟩ := ht.trace
    simp [hm, ht.mem, ht.pc, ht.mar, ht.ibr, ht.ir, ht.sym, ht.memLit, ht.re, ht.run, ht.ac, ht.flags, htrace]

end Sys2Proof.Machine

/-! Statements of 41_store_halt.md: SAVE, END, the ALU's `halt()`, and what the two instructions leave unchanged. -/

namespace Sys2Proof.Machine

/-! ## The execute phase of SAVE and of END is their X1, recorded (41_store_halt.md R121, R123) -/

theorem exec_save_running {s : State} (hr : s.run = .running) (a : Addr) :
    exec (.save a) s = .next (record (saveX1 a s)) :=
  microStepWith_running (saveX1 a) hr

theorem exec_halt_running {s : State} (hr : s.run = .running) (a : Addr) :
    exec (.halt a) s = .next (record (endX1 a s)) :=
  microStepWith_running (endX1 a) hr

theorem eq_of_exec_save_next {s t : State} {a : Addr} (h : exec (.save a) s = .next t) : t = record (saveX1 a s) :=
  (microStepWith_next h).2

theorem eq_of_exec_halt_next {s t : State} {a : Addr} (h : exec (.halt a) s = .next t) : t = record (endX1 a s) :=
  (microStepWith_next h).2

/-- Settles O15: the recorded X1 of SAVE, with the rules of a read after a write for the cells. -/
theorem saveExecutes : Obligations.SaveExecutes := by
  intro s a hr
  refine ⟨record (saveX1 a s), exec_save_running hr a, ?written, ?others, ?fields⟩
  case written => exact read_write_same s.mem a s.ac
  case others => exact fun b hb => read_write_other s.mem s.ac hb
  case fields => simp [flagsSave]

/-- Settles O16: the recorded X1 of END, which writes `AC`, `RUN` and `CAUSE` only. -/
theorem endExecutes : Obligations.EndExecutes := by
  intro s a hr
  exact ⟨record (endX1 a s), exec_halt_running hr a, by simp⟩

/-- Settles O17: no field but `AC` differs. -/
theorem haltOnlyZeroesTheAccumulator : Obligations.HaltOnlyZeroesTheAccumulator := fun s =>
  ⟨haltAlu_ac s, haltAlu_disp s, haltAlu_mem s, rfl⟩

/-- Settles O20: SAVE writes one cell and two wires besides the display, END no cell and no flag. -/
theorem saveAndEndFrame : Obligations.SaveAndEndFrame := by
  intro s t a i hi h
  rcases List.mem_pair.1 hi with rfl | rfl
  · rw [eq_of_exec_save_next h]
    refine ⟨fun b hb => read_write_other s.mem s.ac (hb rfl), ?_⟩
    simp
  · rw [eq_of_exec_halt_next h]
    simp

end Sys2Proof.Machine

/-! Statements of 42_control_cycle.md: the micro-steps of fetch and execute, their order, the cycle they make up, and the
invariant they keep. -/

namespace Sys2Proof.Machine

open Sys2Proof.Safety

/-! ## The micro-step of each phase (42_control_cycle.md R142) -/

theorem microStep_f1 {s : State} (hp : s.ph = .f1) : microStep s = microStepWith fetchA s := by simp only [microStep, hp]

theorem microStep_f2 {s : State} (hp : s.ph = .f2) : microStep s = microStepWith fetchB s := by simp only [microStep, hp]

theorem microStep_f3 {s : State} (hp : s.ph = .f3) : microStep s = microStepWith fetchC s := by simp only [microStep, hp]

theorem microStep_dec {s : State} (hp : s.ph = .dec) : microStep s = microStepWith decodeStep s := by
  simp only [microStep, hp]

theorem microStep_x2 {s : State} (hp : s.ph = .x2) : microStep s = microX2 s := by simp only [microStep, hp]

/-- Settles O21: F1 writes what its rule lists and is recorded. -/
theorem fetchCopiesPcToMar : Obligations.FetchCopiesPcToMar := by
  intro s hr hp
  exact ⟨record (fetchA s), (microStep_f1 hp).trans (microStepWith_running fetchA hr), hr, rfl⟩

/-- Settles O22: the content of the cell decides. -/
theorem fetchReadsTheCellAtMar : Obligations.FetchReadsTheCellAtMar := by
  intro s hr hp
  have hstep : microStep s = .next (record (fetchB s)) := (microStep_f2 hp).trans (microStepWith_running fetchB hr)
  refine ⟨fun w hm => ⟨_, hstep, ?_⟩, fun hm => ⟨_, hstep, ?_⟩⟩
  · rw [fetchB_some hm]
    rfl
  · rw [fetchB_empty hm]
    rfl

/-! ## Execute, by the opcode in `IR` (42_control_cycle.md R140, R141) -/

/-- An ALU operation belongs to one of the four arithmetic instructions. -/
theorem decode_of_aluOf {w : Word} {op : Word → Word → AluOutcome} (h : aluOf (opcodeField w).toNat = some op) :
    (decode w = .ok (.add (addrField w)) ∧ op = aluAdd) ∨ (decode w = .ok (.sub (addrField w)) ∧ op = aluSub) ∨
    (decode w = .ok (.div (addrField w)) ∧ op = aluDiv) ∨ (decode w = .ok (.mul (addrField w)) ∧ op = aluMul) := by
  have hlt := lt_of_aluOf h
  rcases decode_cases w with ⟨hn, hd⟩ | ⟨hn, hd⟩ | ⟨hn, hd⟩ | ⟨hn, hd⟩ | ⟨hn, -⟩ | ⟨hn, -⟩ | ⟨hn, -⟩
  iterate 4
    rw [hn] at h
    cases h
    simp [hd]
  all_goals omega

/-- X1 of an arithmetic instruction reads the operand. -/
theorem microStep_x1_of_aluOf {s : State} {op : Word → Word → AluOutcome} (hp : s.ph = .x1)
    (h : aluOf (opcodeField s.ir).toNat = some op) : microStep s = microStepWith (readOperand (addrField s.ir)) s := by
  rcases decode_of_aluOf h with ⟨hd, -⟩ | ⟨hd, -⟩ | ⟨hd, -⟩ | ⟨hd, -⟩ <;> exact microStep_x1 hp hd

/-- X2 of an arithmetic instruction applies its operation. -/
theorem microX2_of_aluOf {s : State} {op : Word → Word → AluOutcome} (h : aluOf (opcodeField s.ir).toNat = some op) :
    microX2 s = microStepWith (aluStep op) s := by
  rcases decode_of_aluOf h with ⟨hd, rfl⟩ | ⟨hd, rfl⟩ | ⟨hd, rfl⟩ | ⟨hd, rfl⟩ <;> simp only [microX2, hd] <;> rfl

/-- Any other opcode has no X2 (log entry 2). -/
theorem microX2_of_four_le {s : State} (h : 4 ≤ (opcodeField s.ir).toNat) : microX2 s = noMicroX2 s := by
  rcases decode_cases s.ir with ⟨hn, -⟩ | ⟨hn, -⟩ | ⟨hn, -⟩ | ⟨hn, -⟩ | ⟨-, hd⟩ | ⟨-, hd⟩ | ⟨-, hd⟩
  iterate 4 omega
  all_goals simp only [microX2, hd]

/-- The execute phase of an arithmetic instruction. -/
theorem cycleFromX1_of_aluOf {s : State} {op : Word → Word → AluOutcome} (h : aluOf (opcodeField s.ir).toNat = some op) :
    cycleFromX1 s = execArith op (addrField s.ir) s := by
  rcases decode_of_aluOf h with ⟨hd, rfl⟩ | ⟨hd, rfl⟩ | ⟨hd, rfl⟩ | ⟨hd, rfl⟩ <;> simp only [cycleFromX1, hd] <;> rfl

/-- What X1 does in a running core, by the opcode in `IR`; it always has a next state. -/
theorem microStep_x1_cases {s : State} (hr : s.run = .running) (hp : s.ph = .x1) :
    ((opcodeField s.ir).toNat < 4 ∧ s.mem.read (addrField s.ir) = none ∧
      microStep s = .next (record (stop .emptyRead s))) ∨
    ((opcodeField s.ir).toNat < 4 ∧ ∃ b, s.mem.read (addrField s.ir) = some b ∧ microStep s = .next (afterX1 b s)) ∨
    ((opcodeField s.ir).toNat = 4 ∧ microStep s = .next (record (saveX1 (addrField s.ir) s))) ∨
    ((opcodeField s.ir).toNat = 5 ∧ microStep s = .next (record (endX1 (addrField s.ir) s))) ∨
    (6 ≤ (opcodeField s.ir).toNat ∧ microStep s = .next (record (invalidX1 s))) := by
  by_cases hop : (opcodeField s.ir).toNat < 4
  · obtain ⟨op, ho⟩ := exists_aluOf hop
    rw [microStep_x1_of_aluOf hp ho, microStepWith_running _ hr]
    rcases readOperand_cases (addrField s.ir) s with ⟨hm, hs⟩ | ⟨b, hm, hs⟩ <;> rw [hs]
    · exact .inl ⟨hop, hm, rfl⟩
    · exact .inr (.inl ⟨hop, b, hm, rfl⟩)
  · rcases decode_cases s.ir with ⟨hn, -⟩ | ⟨hn, -⟩ | ⟨hn, -⟩ | ⟨hn, -⟩ | ⟨hn, hd⟩ | ⟨hn, hd⟩ | ⟨hn, hd⟩
    iterate 4 omega
    · exact .inr (.inr (.inl ⟨hn, (microStep_x1 hp hd).trans (microStepWith_running _ hr)⟩))
    · exact .inr (.inr (.inr (.inl ⟨hn, (microStep_x1 hp hd).trans (microStepWith_running _ hr)⟩)))
    · exact .inr (.inr (.inr (.inr ⟨hn, (x1_of_decode_error hr hp hd).2⟩)))

/-- Settles O25, by the cases of X1. -/
theorem executeDispatchesOnTheOpcode : Obligations.ExecuteDispatchesOnTheOpcode := by
  intro s hr hp
  rcases microStep_x1_cases hr hp with ⟨hop, hm, hs⟩ | ⟨hop, b, hm, hs⟩ | ⟨hop, hs⟩ | ⟨hop, hs⟩ | ⟨hop, hs⟩ <;>
    refine ⟨_, hs, ?_⟩
  · exact .inr (.inl ⟨hop, hm, rfl⟩)
  · exact .inl ⟨hop, b, hm, rfl⟩
  · exact .inr (.inr (.inl ⟨hop, rfl, rfl, read_write_same s.mem (addrField s.ir) s.ac⟩))
  · exact .inr (.inr (.inr (.inl ⟨hop, rfl, rfl, rfl⟩)))
  · exact .inr (.inr (.inr (.inr ⟨hop, rfl⟩)))

/-- Settles O26: the ALU's outcome decides, and an opcode without an operation faults. -/
theorem secondExecuteStepAppliesTheAlu : Obligations.SecondExecuteStepAppliesTheAlu := by
  intro s hr hp
  refine ⟨fun op ho => ⟨record (aluStep op s), ?_, ?_⟩, fun hop => ?_⟩
  · exact (microStep_x2 hp).trans ((microX2_of_aluOf ho).trans (microStepWith_running _ hr))
  · cases h : op s.ac s.re with
    | success r => simp [aluStep_success h, hr]
    | overflow => simp [aluStep_failure (op := op) (s := s) (c := .overflow) (d := .overflow) (h ▸ by decide)]
    | underflow => simp [aluStep_failure (op := op) (s := s) (c := .underflow) (d := .underflow) (h ▸ by decide)]
    | divideByZero => simp [aluStep_failure (op := op) (s := s) (c := .divideByZero) (d := .undefined) (h ▸ by decide)]
  · rw [microStep_x2 hp, microX2_of_four_le hop]
    exact if_pos hr

/-! ## What every micro-step does to `RUN`, `PH`, `PC` and the trace (42_control_cycle.md R142, R144, R146) -/

/-- The micro-step that follows another while the run goes on (42_control_cycle.md R142). -/
def Phase.next : Phase → Phase
  | .f1 => .f2
  | .f2 => .f3
  | .f3 => .dec
  | .dec => .x1
  | .x1 => .x2
  | .x2 => .f1

/-- A micro-step goes on in order, past execute only for an arithmetic opcode, or it stops the run. -/
theorem microStep_goes_on_or_stops {s t : State} (h : microStep s = .next t) :
    (t.run = .running ∧ t.ph = s.ph.next ∧ (s.ph = .x1 ∨ s.ph = .x2 → (opcodeField s.ir).toNat < 4)) ∨ t.run = .stopped := by
  obtain ⟨hr, u, rfl, ⟨hp, rfl⟩ | ⟨-, -, rfl⟩ | ⟨hp, w, -, rfl⟩ | ⟨-, -, rfl⟩ | ⟨hp, -, rfl⟩ | ⟨hp, rfl⟩ | ⟨-, -, -, rfl⟩ |
    ⟨hp, hop, b, -, rfl⟩ | ⟨-, -, rfl⟩ | ⟨-, -, rfl⟩ | ⟨-, -, rfl⟩ | ⟨hp, op, ho, ⟨r, -, rfl⟩ | ⟨c, d, -, rfl⟩⟩⟩ :=
    microStep_inversion h
  · simp [hr, hp, Phase.next]
  · simp
  · simp [hr, hp, Phase.next]
  · simp
  · simp [hr, hp, Phase.next]
  · simp [hr, hp, Phase.next]
  · simp
  · simp [hr, hp, hop, Phase.next]
  · simp
  · simp
  · simp
  · simp [hr, hp, lt_of_aluOf ho, Phase.next]
  · simp

/-- Settles O29: the listed pairs are those of `Phase.next`. -/
theorem microStepsFollowInOrder : Obligations.MicroStepsFollowInOrder := by
  intro s t h hrun
  rcases microStep_goes_on_or_stops h with ⟨-, hph, hop⟩ | hstop
  · refine ⟨?_, hop⟩
    rw [hph]
    cases s.ph <;> decide
  · cases hstop.symm.trans hrun

/-- Every micro-step leaves the one snapshot of the state after it. -/
theorem microStep_trace {s t : State} (h : microStep s = .next t) : t.trace = s.trace ++ [t.snapshot] := by
  obtain ⟨-, u, rfl, hu⟩ := microStep_inversion h
  have htrace : u.trace = s.trace := by
    rcases hu with ⟨-, rfl⟩ | ⟨-, -, rfl⟩ | ⟨-, w, -, rfl⟩ | ⟨-, -, rfl⟩ | ⟨-, -, rfl⟩ | ⟨-, rfl⟩ | ⟨-, -, -, rfl⟩ |
      ⟨-, -, b, -, rfl⟩ | ⟨-, -, rfl⟩ | ⟨-, -, rfl⟩ | ⟨-, -, rfl⟩ | ⟨-, op, -, ⟨r, -, rfl⟩ | ⟨c, d, -, rfl⟩⟩ <;> rfl
  simp [htrace]

/-- `PC` changes in F3 only, by one. -/
theorem microStep_pc {s t : State} (h : microStep s = .next t) :
    t.pc = s.pc ∨ (s.ph = .f3 ∧ t.pc.toNat = s.pc.toNat + 1) := by
  by_cases hp : s.ph = .f3
  · rw [microStep_f3 hp] at h
    obtain ⟨-, rfl⟩ := microStepWith_next h
    rcases fetchC_cases s with ⟨-, hs⟩ | ⟨hpc, hs⟩ <;> rw [hs]
    · exact .inl rfl
    · exact .inr ⟨hp, toNat_pc_succ hpc⟩
  · obtain ⟨-, -, hpc, -⟩ := everyRegisterHasItsWriter s t h
    exact .inl (hpc hp)

/-- No instruction writes `PC`. -/
theorem exec_pc {i : Instr} {s t : State} (h : exec i s = .next t) : t.pc = s.pc := by
  cases i with
  | add a | sub a | div a | mul a =>
    obtain ⟨-, hpc, -⟩ := arithmeticFrame s t a _ (by simp) h
    exact hpc
  | save a => rw [eq_of_exec_save_next h]; rfl
  | halt a => rw [eq_of_exec_halt_next h]; rfl

/-- Nor does the execute phase of any word. -/
theorem cycleFromX1_pc {s t : State} (h : cycleFromX1 s = .next t) : t.pc = s.pc := by
  unfold cycleFromX1 at h
  split at h
  · exact exec_pc h
  · obtain ⟨-, rfl⟩ := microStepWith_next h
    rfl

/-- Settles O28: the fetch either stops before F3 is done or increments `PC`, and the execute phase keeps it. -/
theorem pcOnlyGrowsByOnePerCycle : Obligations.PcOnlyGrowsByOnePerCycle := by
  refine ⟨rfl, fun i s t => exec_pc, fun s t => microStep_pc, fun s t hp h => ?_⟩
  by_cases hr : s.run = .running
  · cases hm : s.mem.read s.pc with
    | none =>
      cases h.symm.trans (step_fetch_empty hr hp hm)
      exact .inr ⟨rfl, rfl, .inl rfl⟩
    | some w =>
      by_cases hpc : s.pc = 0b1111#4
      · cases h.symm.trans (step_fetch_wrap hr hp hm hpc)
        exact .inr ⟨rfl, rfl, .inr rfl⟩
      · rw [step_fetch hr hp hm hpc] at h
        rw [cycleFromX1_pc h]
        exact .inl (toNat_pc_succ hpc)
  · cases h.symm.trans (step_not_running hr)

/-- Settles O35: `u` is the state after F1, F2, F3 and DEC, and the step is the execute phase there. -/
theorem stepRunsTheDecodedInstruction : Obligations.StepRunsTheDecodedInstruction := by
  intro s w hr hp hm hpc
  have hstep : step s = cycleFromX1 (afterDec s w) := step_fetch hr hp hm hpc
  have hpc' : BitVec.ofNat 4 (s.pc.toNat + 1) = s.pc + 1 := by simp [BitVec.ofNat_add]
  refine ⟨afterDec s w, rfl, rfl, rfl, hpc', rfl, rfl, rfl, hr, rfl, rfl, rfl, rfl, rfl, rfl, ?trace, ?valid, ?invalid⟩
  case trace =>
    refine ⟨(afterF1 s).snapshot, (afterF2 s w).snapshot, (afterF3 s w).snapshot, ?_⟩
    show s.trace ++ [_] ++ [_] ++ [_] ++ [_] = _
    simp only [List.append_assoc, List.cons_append, List.nil_append]
    rfl
  case valid =>
    intro i hd
    have hir : decode (afterDec s w).ir = .ok i := hd
    rw [hstep]
    simp only [cycleFromX1, hir]
  case invalid =>
    rintro ⟨e, hd⟩
    obtain ⟨hx1, -⟩ := x1_of_decode_error (s := afterDec s w) hr rfl hd
    exact ⟨_, hstep.trans ((step_x1 rfl).symm.trans hx1), rfl⟩

/-! ## A cycle is its micro-steps (42_control_cycle.md R142, R144; log entry 1) -/

/-- Two ways to go on after `r` that agree wherever `r` leaves the core running. -/
theorem andThen_congr {r : Result} {k k' : State → Result} (h : ∀ u, r = .next u → u.run = .running → k u = k' u) :
    andThen r k = andThen r k' := by
  cases r with
  | next u =>
    by_cases hu : u.run = .running
    · rw [andThen_next_running k hu, andThen_next_running k' hu, h u rfl hu]
    · rw [andThen_next_not_running k hu, andThen_next_not_running k' hu]
  | fault e => rfl
  | refused e => rfl

/-- Doing nothing after `r` is `r`. -/
theorem andThen_pure (r : Result) : andThen r .next = r := by
  cases r with
  | next u => exact ite_self _
  | fault e => rfl
  | refused e => rfl

/-- The execute phase of SAVE, END and an invalid opcode is X1 alone. -/
theorem cycleFromX1_of_four_le {s : State} (hr : s.run = .running) (hp : s.ph = .x1)
    (hop : 4 ≤ (opcodeField s.ir).toNat) : cycleFromX1 s = microStep s := by
  rcases decode_cases s.ir with ⟨hn, -⟩ | ⟨hn, -⟩ | ⟨hn, -⟩ | ⟨hn, -⟩ | ⟨-, hd⟩ | ⟨-, hd⟩ | ⟨-, hd⟩
  iterate 4 omega
  · rw [microStep_x1 hp hd, cycleFromX1, hd]
    rfl
  · rw [microStep_x1 hp hd, cycleFromX1, hd]
    rfl
  · obtain ⟨hstep, hmicro⟩ := x1_of_decode_error hr hp hd
    rw [← step_x1 hp, hstep, hmicro]

/-- The execute phase is X1 and, unless X1 stopped the run, X2. -/
theorem cycleFromX1_eq_x1_x2 {s : State} (hr : s.run = .running) (hp : s.ph = .x1) :
    cycleFromX1 s = andThen (microStep s) microX2 := by
  by_cases hop : (opcodeField s.ir).toNat < 4
  · obtain ⟨op, ho⟩ := exists_aluOf hop
    rw [cycleFromX1_of_aluOf ho, execArith, microStep_x1_of_aluOf hp ho]
    refine andThen_congr fun u hu _ => ?_
    obtain ⟨-, rfl⟩ := microStepWith_next hu
    have hir : (record (readOperand (addrField s.ir) s)).ir = s.ir := by
      rcases readOperand_cases (addrField s.ir) s with ⟨-, hs⟩ | ⟨b, -, hs⟩ <;> rw [hs] <;> rfl
    exact (microX2_of_aluOf (by rw [hir, ho])).symm
  · rw [cycleFromX1_of_four_le hr hp (Nat.le_of_not_lt hop)]
    refine (andThen_pure _).symm.trans (andThen_congr fun u hu hrun => ?_)
    rcases microStep_goes_on_or_stops hu with ⟨-, -, hlt⟩ | hstop
    · exact absurd (hlt (.inl hp)) hop
    · cases hstop.symm.trans hrun

/-- What is left of a cycle when the micro-step `p` comes next: nothing before F1. -/
def restFrom : Phase → State → Result
  | .f1 => .next
  | .f2 => cycleFromF2
  | .f3 => cycleFromF3
  | .dec => cycleFromDec
  | .x1 => cycleFromX1
  | .x2 => microX2

/-- In the middle of a cycle a step is what is left of the cycle. -/
theorem step_eq_restFrom {s : State} (h : s.ph ≠ .f1) : step s = restFrom s.ph s := by
  unfold step cycle
  cases hp : s.ph with
  | f1 => exact absurd hp h
  | f2 | f3 | dec | x1 | x2 => rfl

/-- A step is one micro-step and what is left of the cycle after it. -/
theorem step_eq_microStep_restFrom {s : State} (hr : s.run = .running) :
    step s = andThen (microStep s) (restFrom s.ph.next) := by
  cases hp : s.ph with
  | f1 => rw [step, cycle, hp, microStep_f1 hp]; rfl
  | f2 => rw [step, cycle, hp, microStep_f2 hp]; rfl
  | f3 => rw [step, cycle, hp, microStep_f3 hp]; rfl
  | dec => rw [step, cycle, hp, microStep_dec hp]; rfl
  | x1 => exact (step_x1 hp).trans (cycleFromX1_eq_x1_x2 hr hp)
  | x2 => rw [step, cycle, hp, microStep_x2 hp]; exact (andThen_pure _).symm

/-- The step of `s` is its first `k` micro-steps: they end the cycle, no fewer do, and each leaves one snapshot. -/
structure StepTakes (k : Nat) (s : State) : Prop where
  answer : step s = microSteps k s
  ends : ∀ t, step s = .next t → t.run = .stopped ∨ (t.run = .running ∧ t.ph = .f1)
  snapshots : ∀ t, step s = .next t → t.trace.length = s.trace.length + k
  goesOn : ∀ j u, 1 ≤ j → j < k → microSteps j s = .next u → u.run = .running ∧ u.ph ≠ .f1

theorem microStep_trace_length {s t : State} (h : microStep s = .next t) : t.trace.length = s.trace.length + 1 := by
  rw [microStep_trace h, List.length_append, List.length_singleton]

/-- A cycle that its first micro-step ends. -/
theorem stepTakes_one {s : State} (hstep : step s = microStep s)
    (hend : ∀ t, microStep s = .next t → t.run = .stopped ∨ (t.run = .running ∧ t.ph = .f1)) : StepTakes 1 s where
  answer := hstep.trans (andThen_pure _).symm
  ends t h := hend t (hstep.symm.trans h)
  snapshots t h := microStep_trace_length (hstep.symm.trans h)
  goesOn j u h1 hj := absurd hj (by omega)

/-- A cycle that goes on after its first micro-step. -/
theorem stepTakes_succ {s u : State} {k : Nat} (hmicro : microStep s = .next u) (hstep : step s = step u)
    (hrun : u.run = .running) (hph : u.ph ≠ .f1) (hu : StepTakes k u) : StepTakes (k + 1) s := by
  have hrest : ∀ j, microSteps (j + 1) s = microSteps j u := fun j => by
    rw [microSteps, hmicro, andThen_next_running _ hrun]
  refine ⟨?_, fun t h => ?_, fun t h => ?_, fun j v h1 hj h => ?_⟩
  · rw [hstep, hu.answer, hrest]
  · exact hu.ends t (hstep.symm.trans h)
  · rw [hu.snapshots t (hstep.symm.trans h), microStep_trace_length hmicro]
    omega
  · obtain ⟨i, rfl⟩ := Nat.exists_eq_add_of_le' h1
    rw [hrest] at h
    cases i with
    | zero =>
      cases h
      exact ⟨hrun, hph⟩
    | succ i => exact hu.goesOn (i + 1) v (Nat.succ_pos i) (by omega) h

/-- How many micro-steps a cycle has at most from this one on. -/
def Phase.left : Phase → Nat
  | .f1 => 6
  | .f2 => 5
  | .f3 => 4
  | .dec => 3
  | .x1 => 2
  | .x2 => 1

theorem Phase.left_next {p : Phase} (h : p.next ≠ .f1) : p.left = p.next.left + 1 := by
  cases p <;> simp_all [Phase.next, Phase.left]

/-- By induction on the micro-steps left in the cycle. -/
theorem exists_stepTakes {s : State} (hr : s.run = .running) : ∃ k, 1 ≤ k ∧ k ≤ s.ph.left ∧ StepTakes k s := by
  induction hn : s.ph.left generalizing s with
  | zero => cases hp : s.ph <;> simp [hp, Phase.left] at hn
  | succ n ih =>
    have hstep := step_eq_microStep_restFrom hr
    cases hmicro : microStep s with
    | next u =>
      rw [hmicro] at hstep
      rcases microStep_goes_on_or_stops hmicro with ⟨hrun, hph, -⟩ | hstop
      · rw [andThen_next_running _ hrun, ← hph] at hstep
        by_cases hf1 : u.ph = .f1
        · refine ⟨1, le_rfl, by omega, stepTakes_one ?_ fun t h => ?_⟩
          · rw [hstep, hmicro, hf1]
            rfl
          · cases hmicro.symm.trans h
            exact .inr ⟨hrun, hf1⟩
        · have hleft := Phase.left_next (p := s.ph) (hph ▸ hf1)
          obtain ⟨k, h1, hk, hu⟩ := ih hrun (by rw [hph]; omega)
          exact ⟨k + 1, by omega, by omega,
            stepTakes_succ hmicro (hstep.trans (step_eq_restFrom hf1).symm) hrun hf1 hu⟩
      · refine ⟨1, le_rfl, by omega, stepTakes_one ?_ fun t h => ?_⟩
        · rw [hstep, hmicro, andThen_next_not_running _ (by simp [hstop])]
        · cases hmicro.symm.trans h
          exact .inl hstop
    | fault e => exact ⟨1, le_rfl, by omega, stepTakes_one (by rw [hstep, hmicro]; rfl) (by simp [hmicro])⟩
    | refused e => exact ⟨1, le_rfl, by omega, stepTakes_one (by rw [hstep, hmicro]; rfl) (by simp [hmicro])⟩

/-- Settles O37: no phase has more than six micro-steps left. -/
theorem stepIsItsMicroSteps : Obligations.StepIsItsMicroSteps := by
  intro s hr
  obtain ⟨k, h1, hk, h⟩ := exists_stepTakes hr
  have hleft : s.ph.left ≤ 6 := by cases s.ph <;> decide
  exact ⟨k, h1, hk.trans hleft, h.answer, fun t ht => ⟨h.ends t ht, h.snapshots t ht⟩, h.goesOn⟩

/-! ## The invariant (42_control_cycle.md section 6, 10_state.md R25) -/

/-- A recorded state meets the invariant when it meets all of it but the trace's part. -/
theorem invariant_record {s : State} (hm : s.mem.wf) (hc : causeAgrees s) (hp : phaseAgrees s) (hl : lightsAgree s) :
    MachineInvariant (record s) where
  memWf := hm
  cause := hc
  phase := hp
  lights := hl
  trace _ := List.getLast?_concat

section Keeps

variable {s : State} (h : MachineInvariant s) (hr : s.run = .running)

include h hr

/-- A run that goes on has no cause. -/
theorem cause_of_running : s.cause = .none := by
  by_contra hc
  cases (h.cause.2 hc).symm.trans hr

/-- While the run goes on, `PH` determines every light but the pairs that are never cleared and `LIT_AC` at F1. -/
theorem lights_of_running :
    s.flags.aluOn = decide (s.ph = .x2) ∧ s.flags.litRe = decide (s.ph = .x2) ∧ s.flags.wMbrAlu = decide (s.ph = .x2) ∧
    (s.memLit = if s.ph = .f3 then some s.mar else none) ∧
    s.flags.wMarMem = decide (s.ph = .f3) ∧ s.flags.wMbrIbr = decide (s.ph = .f3) ∧
    s.flags.wMemMbr = decide (s.ph = .f3 ∨ s.ph = .x2) ∧
    s.flags.litPc = decide (s.ph = .dec) ∧ s.flags.litIbr = decide (s.ph = .f3 ∨ s.ph = .dec) ∧
    (s.ph ≠ .f1 → s.flags.litAc = false) ∧ s.flags.wAcAlu = false ∧ s.flags.wAluMbr = false ∧
    s.flags.wPcMar = s.flags.litMar ∧ s.flags.wIbrIr = s.flags.litIr := by
  obtain ⟨hon, hre, hmbr, hlit, hmar, hibr, hmem, hpc, hlitIbr, hac, hsave, hwmbr, hpairs⟩ := h.lights
  have halu : s.flags.aluOn = decide (s.ph = .x2) := Bool.eq_iff_iff.2 (by simp [hon, hr])
  have hlit' : s.memLit.isSome = decide (s.ph = .f3) := by
    rw [hlit]
    split <;> simp [*]
  have hwac : s.flags.wAcAlu = false := Bool.eq_false_iff.2 (by simp [hsave, cause_of_running h hr])
  refine ⟨halu, hre.trans halu, hmbr.trans halu, hlit, hmar.trans hlit', hibr.trans hlit', ?mem, ?pc, ?ibr, ?ac, hwac,
    hwmbr.trans hwac, hpairs⟩
  case mem => rw [hmem, hlit', halu, Bool.decide_or]
  case pc => exact Bool.eq_iff_iff.2 (by simp [hpc])
  case ibr => exact Bool.eq_iff_iff.2 (by simp [hlitIbr])
  case ac => exact fun hne => Bool.eq_false_iff.2 (mt hac hne)

/-- A stop before X2, whose cause is not SAVE, changes no light and no register. -/
theorem stop_keeps_invariant {c : Cause} (hp : s.ph ≠ .x2) (hc : c ≠ .none) (hs : c ≠ .save) :
    MachineInvariant (record (stop c s)) := by
  obtain ⟨-, hphase⟩ := h.phase
  obtain ⟨hon, hre, hmbr, hlit, hmar, hibr, hmem, hpc, hlitIbr, hac, hsave, hpairs⟩ := h.lights
  refine invariant_record h.memWf ⟨fun _ => hc, fun _ => rfl⟩ ⟨nofun, hphase⟩
    ⟨?on, hre, hmbr, hlit, hmar, hibr, hmem, hpc, hlitIbr, hac, ?save, hpairs⟩
  case on => simp [hon, hp]
  case save => simp [hsave, cause_of_running h hr, hs]

theorem fetchA_keeps_invariant (hp : s.ph = .f1) : MachineInvariant (record (fetchA s)) := by
  refine invariant_record h.memWf h.cause ?_ ?_
  · simp [phaseAgrees, hr]
  · simp [lightsAgree, lights_of_running h hr, cause_of_running h hr, hp]

theorem fetchB_keeps_invariant (hp : s.ph = .f2) {w : Word} (hm : s.mem.read s.mar = some w) :
    MachineInvariant (record { s with ibr := w, flags := flagsF2 s.flags, memLit := some s.mar, ph := .f3 }) := by
  obtain ⟨-, hmar, -⟩ := h.phase
  refine invariant_record h.memWf h.cause ?_ ?_
  · simp [phaseAgrees, hr, hm, ← hmar (.inl hp)]
  · simp [lightsAgree, lights_of_running h hr, cause_of_running h hr, hp]

theorem fetchC_keeps_invariant (hp : s.ph = .f3) (hpc : s.pc ≠ 0b1111#4) :
    MachineInvariant (record { s with
      pc := BitVec.ofNat 4 (s.pc.toNat + 1), flags := flagsF3 s.flags, memLit := none, ph := .dec }) := by
  obtain ⟨-, hmar, -⟩ := h.phase
  refine invariant_record h.memWf h.cause ?_ ?_
  · simp only [phaseAgrees, toNat_pc_succ hpc, hmar (.inr hp)]
    simp [hr]
  · simp [lightsAgree, lights_of_running h hr, cause_of_running h hr, hp]

theorem decodeStep_keeps_invariant (hp : s.ph = .dec) : MachineInvariant (record (decodeStep s)) := by
  obtain ⟨-, -, -, hpc, -⟩ := h.phase
  refine invariant_record h.memWf h.cause ?_ ?_
  · simp [phaseAgrees, hr, hpc (.inl hp)]
  · simp [lightsAgree, lights_of_running h hr, cause_of_running h hr, hp]

theorem afterX1_keeps_invariant (hp : s.ph = .x1) (hop : (opcodeField s.ir).toNat < 4) (b : Word) :
    MachineInvariant (afterX1 b s) := by
  obtain ⟨-, -, -, hpc, hir, -⟩ := h.phase
  refine invariant_record h.memWf h.cause ?_ ?_
  · simp [phaseAgrees, hr, hpc (.inr (.inl hp)), ← hir (.inl hp), arithmeticOpcode, hop]
  · simp [lightsAgree, lights_of_running h hr, cause_of_running h hr, hp, hr]

theorem saveX1_keeps_invariant (hp : s.ph = .x1) (a : Addr) : MachineInvariant (record (saveX1 a s)) := by
  obtain ⟨-, -, -, hphase⟩ := h.phase
  refine invariant_record (write_wf h.memWf a s.ac) ⟨nofun, fun _ => rfl⟩ ⟨nofun, ?_, ?_, hphase⟩ ?_
  · simp [hp]
  · simp [hp]
  · simp [lightsAgree, lights_of_running h hr, hp]

/-- END only clears `AC` besides, of which the invariant says nothing. -/
theorem endX1_keeps_invariant (hp : s.ph = .x1) (a : Addr) : MachineInvariant (record (endX1 a s)) := by
  obtain ⟨hm, hc, hphase, hlights, -⟩ := stop_keeps_invariant h hr (c := .halt) (by simp [hp]) (by decide) (by decide)
  exact invariant_record hm hc hphase hlights

theorem x2_success_keeps_invariant (hp : s.ph = .x2) (r : Word) :
    MachineInvariant (record { s with ac := r, flags := flagsAluSuccess (flagsX2 s.flags), ph := .f1 }) := by
  refine invariant_record h.memWf h.cause ?_ ?_
  · simp [phaseAgrees, hr]
  · simp [lightsAgree, lights_of_running h hr, cause_of_running h hr, hp]

theorem x2_failure_keeps_invariant (hp : s.ph = .x2) {c : Cause} (d : Display) (hc : c ≠ .none) (hs : c ≠ .save) :
    MachineInvariant (record { s with flags := flagsX2 s.flags, disp := d, run := .stopped, cause := c }) := by
  obtain ⟨-, hphase⟩ := h.phase
  refine invariant_record h.memWf ⟨fun _ => hc, fun _ => rfl⟩ ⟨nofun, hphase⟩ ?_
  simp [lightsAgree, lights_of_running h hr, hp, hs]

end Keeps

/-- No failure of the ALU stops with no cause or with that of SAVE. -/
theorem cause_of_aluFailures {o : AluOutcome} {c : Cause} {d : Display} (h : (o, c, d) ∈ aluFailures) :
    c ≠ .none ∧ c ≠ .save := by
  simp only [aluFailures, List.mem_cons, Prod.mk.injEq, List.not_mem_nil, or_false] at h
  rcases h with ⟨-, rfl, -⟩ | ⟨-, rfl, -⟩ | ⟨-, rfl, -⟩ <;> simp

/-- Settles O42, by the cases of the micro-step. -/
theorem microStepKeepsTheInvariant : Obligations.MicroStepKeepsTheInvariant := by
  intro s t h hs
  obtain ⟨hr, u, rfl, hf1 | hf2e | hf2 | hf3w | hf3 | hdec | hx1e | hx1 | hsave | hend | hinv | ⟨hp, op, -, hx2 | hx2f⟩⟩ :=
    microStep_inversion hs
  · obtain ⟨hp, rfl⟩ := hf1
    exact fetchA_keeps_invariant h hr hp
  · obtain ⟨hp, -, rfl⟩ := hf2e
    exact stop_keeps_invariant h hr (by simp [hp]) (by decide) (by decide)
  · obtain ⟨hp, w, hm, rfl⟩ := hf2
    exact fetchB_keeps_invariant h hr hp hm
  · obtain ⟨hp, -, rfl⟩ := hf3w
    exact stop_keeps_invariant h hr (by simp [hp]) (by decide) (by decide)
  · obtain ⟨hp, hpc, rfl⟩ := hf3
    exact fetchC_keeps_invariant h hr hp hpc
  · obtain ⟨hp, rfl⟩ := hdec
    exact decodeStep_keeps_invariant h hr hp
  · obtain ⟨hp, -, -, rfl⟩ := hx1e
    exact stop_keeps_invariant h hr (by simp [hp]) (by decide) (by decide)
  · obtain ⟨hp, hop, b, -, rfl⟩ := hx1
    exact afterX1_keeps_invariant h hr hp hop b
  · obtain ⟨hp, -, rfl⟩ := hsave
    exact saveX1_keeps_invariant h hr hp (addrField s.ir)
  · obtain ⟨hp, -, rfl⟩ := hend
    exact endX1_keeps_invariant h hr hp (addrField s.ir)
  · obtain ⟨hp, -, rfl⟩ := hinv
    exact stop_keeps_invariant h hr (by simp [hp]) (by decide) (by decide)
  · obtain ⟨r, -, rfl⟩ := hx2
    exact x2_success_keeps_invariant h hr hp r
  · obtain ⟨c, d, hf, rfl⟩ := hx2f
    obtain ⟨hc, hs⟩ := cause_of_aluFailures hf
    exact x2_failure_keeps_invariant h hr hp d hc hs

/-- Where the invariant holds the micro-step of a running core exists: X2 comes with an arithmetic opcode. -/
theorem exists_microStep {s : State} (h : MachineInvariant s) (hr : s.run = .running) : ∃ t, microStep s = .next t := by
  cases hp : s.ph with
  | f1 => exact ⟨_, (microStep_f1 hp).trans (microStepWith_running _ hr)⟩
  | f2 => exact ⟨_, (microStep_f2 hp).trans (microStepWith_running _ hr)⟩
  | f3 => exact ⟨_, (microStep_f3 hp).trans (microStepWith_running _ hr)⟩
  | dec => exact ⟨_, (microStep_dec hp).trans (microStepWith_running _ hr)⟩
  | x1 =>
    obtain ⟨t, ht, -⟩ := executeDispatchesOnTheOpcode s hr hp
    exact ⟨t, ht⟩
  | x2 =>
    obtain ⟨-, -, -, -, -, harith⟩ := h.phase
    obtain ⟨op, ho⟩ := exists_aluOf (of_decide_eq_true (harith hp))
    exact ⟨_, (microStep_x2 hp).trans ((microX2_of_aluOf ho).trans (microStepWith_running _ hr))⟩

/-- Micro-steps from a running state that meets the invariant have a next state, and it meets the invariant. -/
theorem exists_microSteps (k : Nat) {s : State} (h : MachineInvariant s) (hr : s.run = .running) :
    ∃ t, microSteps k s = .next t ∧ MachineInvariant t := by
  induction k generalizing s with
  | zero => exact ⟨s, rfl, h⟩
  | succ k ih =>
    obtain ⟨u, hu⟩ := exists_microStep h hr
    have hinv := microStepKeepsTheInvariant s u h hu
    rw [microSteps, hu]
    by_cases hrun : u.run = .running
    · rw [andThen_next_running _ hrun]
      exact ih hinv hrun
    · exact ⟨u, andThen_next_not_running _ hrun, hinv⟩

/-- A step is a number of micro-steps. -/
theorem exists_step {s : State} (h : MachineInvariant s) (hr : s.run = .running) :
    ∃ t, step s = .next t ∧ MachineInvariant t := by
  obtain ⟨k, -, -, hk⟩ := exists_stepTakes hr
  rw [hk.answer]
  exact exists_microSteps k h hr

/-- Settles O43: only a running core has a step, and its micro-steps keep the invariant. -/
theorem stepKeepsTheInvariant : Obligations.StepKeepsTheInvariant := by
  intro s t h hs
  by_cases hr : s.run = .running
  · obtain ⟨u, hu, hinv⟩ := exists_step h hr
    cases hs.symm.trans hu
    exact hinv
  · cases hs.symm.trans (step_not_running hr)

/-- Settles O45: the invariant rules out the one fault. -/
theorem aRunningMachineAlwaysSteps : Obligations.ARunningMachineAlwaysSteps := by
  intro s h hr
  obtain ⟨t, ht, -⟩ := exists_step h hr
  exact ⟨⟨t, ht⟩, exists_microStep h hr⟩

end Sys2Proof.Machine

/-! Statements of 60_exceptions.md: what a stop writes, and that the stopped core is final. -/

namespace Sys2Proof.Machine

/-! ## Stop entry (60_exceptions.md R163) -/

/-- The causes whose stop writes nothing but `RUN` and `CAUSE` (60_exceptions.md R163). -/
def bareCauses : List Cause := [.invalidOpcode, .emptyRead, .pcWrap]

/-- The inversion of a micro-step that stops: X1 of SAVE or of END, a bare stop, or a failure of the ALU in X2. -/
theorem microStep_stops {s t : State} (h : microStep s = .next t) (hstop : t.run = .stopped) :
    t = record (saveX1 (addrField s.ir) s) ∨ t = record (endX1 (addrField s.ir) s) ∨
    (∃ c ∈ bareCauses, t = record (stop c s)) ∨
    ∃ o c d, (o, c, d) ∈ aluFailures ∧
      t = record { s with flags := flagsX2 s.flags, disp := d, run := .stopped, cause := c } := by
  obtain ⟨hr, u, rfl, ⟨-, rfl⟩ | ⟨-, -, rfl⟩ | ⟨-, w, -, rfl⟩ | ⟨-, -, rfl⟩ | ⟨-, -, rfl⟩ | ⟨-, rfl⟩ | ⟨-, -, -, rfl⟩ |
    ⟨-, -, b, -, rfl⟩ | ⟨-, -, rfl⟩ | ⟨-, -, rfl⟩ | ⟨-, -, rfl⟩ | ⟨-, op, -, ⟨r, -, rfl⟩ | ⟨c, d, hf, rfl⟩⟩⟩ :=
    microStep_inversion h
  · cases hr.symm.trans hstop
  · exact .inr (.inr (.inl ⟨.emptyRead, by decide, rfl⟩))
  · cases hr.symm.trans hstop
  · exact .inr (.inr (.inl ⟨.pcWrap, by decide, rfl⟩))
  · cases hr.symm.trans hstop
  · cases hr.symm.trans hstop
  · exact .inr (.inr (.inl ⟨.emptyRead, by decide, rfl⟩))
  · cases hr.symm.trans hstop
  · exact .inl rfl
  · exact .inr (.inl rfl)
  · exact .inr (.inr (.inl ⟨.invalidOpcode, by decide, rfl⟩))
  · cases hr.symm.trans hstop
  · exact .inr (.inr (.inr ⟨_, c, d, hf, rfl⟩))

/-- Settles O30, by the four kinds of stop. -/
theorem stopEntryWritesWhatItsRuleLists : Obligations.StopEntryWritesWhatItsRuleLists := by
  intro s t h hstop
  rcases microStep_stops h hstop with rfl | rfl | ⟨c, hc, rfl⟩ | ⟨o, c, d, hf, rfl⟩
  · exact ⟨rfl, nofun, fun _ => rfl, nofun, by simp, by simp⟩
  · exact ⟨rfl, nofun, nofun, fun _ => rfl, by simp, by simp⟩
  · simp only [bareCauses, List.mem_cons, List.not_mem_nil, or_false] at hc
    rcases hc with rfl | rfl | rfl <;> exact ⟨rfl, nofun, nofun, nofun, by simp, fun _ => rfl⟩
  · simp only [aluFailures, List.mem_cons, Prod.mk.injEq, List.not_mem_nil, or_false] at hf
    rcases hf with ⟨-, rfl, rfl⟩ | ⟨-, rfl, rfl⟩ | ⟨-, rfl, rfl⟩ <;>
      exact ⟨rfl, nofun, nofun, nofun, fun _ => ⟨rfl, by simp⟩, by simp⟩

/-! ## The stopped core (60_exceptions.md R165) -/

/-- The inversion of a host operation: `Reset`, the reading of the snapshot, a micro-step, or an operation of the idle core
(42_control_cycle.md R135). -/
theorem hostStep_next {op : HostOp} {s t : State} (h : hostStep op s = .next t) :
    (op = .reset ∧ t = State.reset) ∨ (op = .readSnapshot ∧ t = s) ∨ (op = .microStep ∧ microStep s = .next t) ∨
    s.run = .idle := by
  cases op with
  | reset => exact .inl ⟨rfl, (Host.Outcome.next.inj h).symm⟩
  | readSnapshot => exact .inr (.inl ⟨rfl, (Host.Outcome.next.inj h).symm⟩)
  | microStep => exact .inr (.inr (.inl ⟨rfl, h⟩))
  | write a v | setDisplay d | start =>
    simp only [hostStep, hostWrite, hostSetDisplay, hostStart] at h
    obtain ⟨hidle, -⟩ := whileIdle_next h
    exact .inr (.inr (.inr hidle))

/-- Settles O32: no micro-step is performed while stopped, and what the host may do besides is for the idle core. -/
theorem stoppedIsFinal : Obligations.StoppedIsFinal := by
  intro s hs
  have hr : s.run ≠ .running := by simp [hs]
  refine ⟨step_not_running hr, fun op t h => ?_⟩
  rcases hostStep_next h with hreset | hread | ⟨-, hmicro⟩ | hidle
  · exact .inr hreset
  · exact .inl hread
  · cases hmicro.symm.trans (microStep_not_running hr)
  · cases hs.symm.trans hidle

end Sys2Proof.Machine

/-! Statements of 10_state.md: the reset values, and the texts of the display. -/

namespace Sys2Proof.Machine

open Sys2Proof.Safety

/-! ## Reset (10_state.md R29) -/

/-- Settles O33: `Reset` answers the reset state, whose fields are written out. -/
theorem resetLeavesTheListedValues : Obligations.ResetLeavesTheListedValues := fun _ =>
  ⟨State.reset, rfl, rfl, rfl, rfl, rfl, read_nil, rfl, rfl, rfl, rfl, rfl, rfl, rfl, rfl, rfl, rfl, rfl⟩

/-- Settles O41: the reset memory has its form, no cause is set, `PH` is F1, and no light is on. -/
theorem resetMeetsTheInvariant : Obligations.ResetMeetsTheInvariant where
  memWf := reset_mem_wf
  cause := by decide
  phase := by decide
  lights := by decide
  trace := fun hrun => absurd rfl hrun

/-! ## The texts of the display (10_state.md R23, 30_encoding.md R80) -/

/-- The text of a digit is the library's. -/
theorem digitChar_eq {n : Nat} (h : n < 10) : digitChar n = n.digitChar := by
  interval_cases n <;> rfl

/-- The decimal text of a number is the library's numeral. -/
theorem decimalText_eq_toDigits {n : Nat} (h : n < 1000) : decimalText n = Nat.toDigits 10 n := by
  unfold decimalText
  split_ifs with h1 h2
  · rw [Nat.toDigits_of_lt_base h1, digitChar_eq h1]
  · rw [Nat.toDigits_of_base_le (by decide) (Nat.le_of_not_lt h1), Nat.toDigits_of_lt_base (by omega),
      digitChar_eq (by omega), digitChar_eq (by omega)]
    rfl
  · rw [Nat.toDigits_of_base_le (by decide) (Nat.le_of_not_lt h1), Nat.toDigits_of_base_le (by decide) (by omega),
      Nat.toDigits_of_lt_base (by omega), Nat.div_div_eq_div_mul, digitChar_eq (by omega), digitChar_eq (by omega),
      digitChar_eq (by omega)]
    rfl

/-- The integer part of a data word is its top seven bits. -/
theorem toNat_integerPart (w : Word) : (w.extractLsb' 1 7).toNat = w.toNat / 2 := by
  have hlt := w.isLt
  rw [BitVec.extractLsb'_toNat, Nat.shiftRight_one]
  omega

/-- A value without a half shows the numeral of its integer part. -/
theorem displayText_of_no_half {w : Word} (h : w.getLsbD 0 = false) :
    displayText w = Nat.toDigits 10 (w.extractLsb' 1 7).toNat := by
  have hlt := w.isLt
  rw [displayText, h, toNat_integerPart]
  exact decimalText_eq_toDigits (by omega)

/-- Settles O48: the six fixed texts are written out, and the seventh is a numeral. -/
theorem displayTexts : Obligations.DisplayTexts :=
  ⟨rfl, rfl, rfl, rfl, rfl, rfl, fun _ h => displayText_of_no_half h⟩

end Sys2Proof.Machine

/-! Statements of 30_encoding.md: words written out, the rounding to halves, the rejected load, and the tokenizer. -/

namespace Sys2Proof.Machine

open Sys2Proof.Safety

/-- Settles O1: each word is written out, so the decoder computes. -/
theorem writtenWordsDecode : Obligations.WrittenWordsDecode := by
  unfold Obligations.WrittenWordsDecode
  decide

/-! ## Rounding to halves (30_encoding.md R66, R67) -/

/-- A word is its own code. -/
theorem encQ_val (w : Word) : encQ (val w) = w.toNat := encQ_half w.toNat

/-- The word of a code that fits stands for that number of halves. -/
theorem val_ofNat {n : Nat} (h : n ≤ 255) : val (BitVec.ofNat 8 n) = (n : ℚ) / 2 := by
  rw [val, BitVec.toNat_ofNat, Nat.mod_eq_of_lt (Nat.lt_succ_of_le h)]

/-- Settles O9: the floor in `encQ` puts the code within half a unit of twice the number. -/
theorem encodingRoundsToTheNearestHalf : Obligations.EncodingRoundsToTheNearestHalf := by
  refine ⟨encQ_val, fun q hq hfits => ?_, fun num den h => enc_eq_encQ num h⟩
  have hle : (encQ q : ℚ) ≤ 2 * q + 1 / 2 := Nat.floor_le (by positivity)
  have hlt : 2 * q + 1 / 2 < (encQ q : ℚ) + 1 := Nat.lt_floor_add_one _
  rw [val_ofNat hfits, encQ_half]
  exact ⟨by linarith, by linarith, rfl⟩

/-! ## A rejected load (30_encoding.md R71) -/

/-- A token list that is rejected fails the load and the boot step alike. -/
theorem load_rejected {ts : List Text} {e : LoadError} (h : checkTokens ts = .error e) (s : State) :
    loadAndStart ts s = failLoad e s ∧ load ts s = failLoad e s := by
  simp only [loadAndStart, load, h, and_self]

/-- Settles O50: the first failing token decides, and the failed load of an idle core sets the display and the trace only. -/
theorem rejectedLoadWritesNothing : Obligations.RejectedLoadWritesNothing := by
  intro good rest bad e s hidle hgood hbad
  obtain ⟨hboot, hload⟩ := load_rejected (checkTokens_first_bad rest hbad good hgood) s
  have hfail := failLoad_idle e hidle
  exact ⟨_, hboot.trans hfail, hload.trans hfail, rfl, rfl, hidle, rfl, rfl⟩

/-! ## The scanner's numbers are literals (30_encoding.md R76) -/

theorem isNumeral_singleton {c : Char} (h : (digitValue c).isSome) : isNumeral [c] := (isNumeral_iff _).2 (by simpa using h)

theorem isNumeral_concat {ds : Text} {c : Char} (h : isNumeral ds) (hc : (digitValue c).isSome) : isNumeral (ds ++ [c]) := by
  obtain ⟨-, hds⟩ := (isNumeral_iff ds).1 h
  exact (isNumeral_iff _).2 ⟨by simp, by simpa [or_imp, forall_and, hc] using hds⟩

theorem isLiteralText_numeral {ds : Text} (h : isNumeral ds) : isLiteralText ds := .inl h

theorem isLiteralText_point {ds fs : Text} (hds : isNumeral ds) (hfs : isNumeral fs) : isLiteralText (ds ++ '.' :: fs) :=
  (isLiteralText_iff _).2 (.inr ⟨ds, fs, rfl, hds, hfs⟩)

/-- The digits the scanner keeps are numerals. -/
def Scan.wf : Scan → Prop
  | .outside => True
  | .inInt ds => isNumeral ds
  | .afterPoint ds => isNumeral ds
  | .inFrac ds fs => isNumeral ds ∧ isNumeral fs

theorem Scan.next_wf {st : Scan} (h : st.wf) (c : Char) : (st.next c).wf := by
  cases hc : digitValue c with
  | some d =>
    have hd : (digitValue c).isSome := by simp [hc]
    cases st with
    | outside =>
      obtain ⟨hnext, -⟩ := scan_digit hd [] []
      rw [hnext]
      exact isNumeral_singleton hd
    | inInt ds =>
      obtain ⟨-, hnext, -⟩ := scan_digit hd ds []
      rw [hnext]
      exact isNumeral_concat h hd
    | afterPoint ds =>
      obtain ⟨-, -, hnext, -⟩ := scan_digit hd ds []
      rw [hnext]
      exact ⟨h, isNumeral_singleton hd⟩
    | inFrac ds fs =>
      obtain ⟨-, -, -, hnext⟩ := scan_digit hd ds fs
      obtain ⟨hds, hfs⟩ := h
      rw [hnext]
      exact ⟨hds, isNumeral_concat hfs hd⟩
  | none =>
    cases st with
    | outside =>
      obtain ⟨hnext, -⟩ := scan_other hc [] []
      rw [hnext]
      trivial
    | inInt ds =>
      obtain ⟨-, hnext, -⟩ := scan_other hc ds []
      rw [hnext]
      split
      exacts [h, trivial]
    | afterPoint ds =>
      obtain ⟨-, -, hnext, -⟩ := scan_other hc ds []
      rw [hnext]
      trivial
    | inFrac ds fs =>
      obtain ⟨-, -, -, hnext⟩ := scan_other hc ds fs
      rw [hnext]
      trivial

theorem Scan.isLiteralText_of_mem_pending {st : Scan} (h : st.wf) {n : Text} (hn : n ∈ st.pending) : isLiteralText n := by
  cases st with
  | outside => cases hn
  | inInt ds | afterPoint ds =>
    cases List.mem_singleton.1 hn
    exact isLiteralText_numeral h
  | inFrac ds fs =>
    cases List.mem_singleton.1 hn
    obtain ⟨hds, hfs⟩ := h
    exact isLiteralText_point hds hfs

/-- A character that leaves the scanner outside ends the number it stood in. -/
theorem numbersFrom_cons (st : Scan) (c : Char) (cs : Text) :
    numbersFrom st (c :: cs) = (if st.next c = .outside then st.pending else []) ++ numbersFrom (st.next c) cs := by
  rw [numbersFrom]
  cases st.next c <;> simp

/-- Every number the scanner finds is a literal. -/
theorem isLiteralText_of_mem_numbersFrom {n : Text} :
    ∀ (t : Text) {st : Scan}, st.wf → n ∈ numbersFrom st t → isLiteralText n
  | [], _, h, hn => Scan.isLiteralText_of_mem_pending h hn
  | c :: cs, st, h, hn => by
    rw [numbersFrom_cons, List.mem_append] at hn
    rcases hn with hn | hn
    · split at hn
      · exact Scan.isLiteralText_of_mem_pending h hn
      · cases hn
    · exact isLiteralText_of_mem_numbersFrom cs (Scan.next_wf h c) hn

theorem isLiteralText_of_mem_numbers {n text : Text} (h : n ∈ numbers text) : isLiteralText n :=
  isLiteralText_of_mem_numbersFrom text (st := .outside) trivial h

/-! ## The numbers are the maximal runs (30_encoding.md R76) -/

/-- A character that is no digit begins no number. -/
theorem numbers_cons_other {c : Char} (h : digitValue c = none) (rest : Text) : numbers (c :: rest) = numbers rest := by
  obtain ⟨hnext, -⟩ := scan_other h [] []
  rw [numbers, numbersFrom_cons, hnext]
  rfl

/-- Digits extend the integer part the scanner stands in. -/
theorem numbersFrom_inInt_append (rest : Text) : ∀ (es ds : Text), (∀ c ∈ es, (digitValue c).isSome) →
    numbersFrom (.inInt ds) (es ++ rest) = numbersFrom (.inInt (ds ++ es)) rest
  | [], ds, _ => by simp
  | c :: es, ds, h => by
    obtain ⟨-, hnext, -⟩ := scan_digit (h c (by simp)) ds []
    rw [List.cons_append, numbersFrom_cons, hnext, numbersFrom_inInt_append rest es _ fun d hd => h d (by simp [hd])]
    simp

/-- Digits extend the fraction the scanner stands in. -/
theorem numbersFrom_inFrac_append (ds rest : Text) : ∀ (es fs : Text), (∀ c ∈ es, (digitValue c).isSome) →
    numbersFrom (.inFrac ds fs) (es ++ rest) = numbersFrom (.inFrac ds (fs ++ es)) rest
  | [], fs, _ => by simp
  | c :: es, fs, h => by
    obtain ⟨-, -, -, hnext⟩ := scan_digit (h c (by simp)) ds fs
    rw [List.cons_append, numbersFrom_cons, hnext, numbersFrom_inFrac_append ds rest es _ fun d hd => h d (by simp [hd])]
    simp

/-- After a numeral the scanner stands in it. -/
theorem numbers_numeral {ds : Text} (h : isNumeral ds) (rest : Text) : numbers (ds ++ rest) = numbersFrom (.inInt ds) rest := by
  obtain ⟨hne, hds⟩ := (isNumeral_iff ds).1 h
  obtain ⟨c, es, rfl⟩ := List.exists_cons_of_ne_nil hne
  obtain ⟨hnext, -⟩ := scan_digit (hds c (by simp)) [] []
  rw [numbers, List.cons_append, numbersFrom_cons, hnext, numbersFrom_inInt_append rest es _ fun d hd => hds d (by simp [hd])]
  rfl

/-- After two numerals around a point the scanner stands in the second. -/
theorem numbers_point {ds fs : Text} (hds : isNumeral ds) (hfs : isNumeral fs) (rest : Text) :
    numbers (ds ++ '.' :: (fs ++ rest)) = numbersFrom (.inFrac ds fs) rest := by
  obtain ⟨hne, hdigits⟩ := (isNumeral_iff fs).1 hfs
  obtain ⟨c, es, rfl⟩ := List.exists_cons_of_ne_nil hne
  have hpoint : Scan.next (.inInt ds) '.' = .afterPoint ds := rfl
  obtain ⟨-, -, hnext, -⟩ := scan_digit (hdigits c (by simp)) ds []
  rw [numbers_numeral hds, numbersFrom_cons, hpoint, List.cons_append, numbersFrom_cons, hnext,
    numbersFrom_inFrac_append ds rest es _ fun d hd => hdigits d (by simp [hd])]
  simp

/-- A fraction ends where no digit follows. -/
theorem numbersFrom_inFrac_end (ds fs : Text) {rest : Text} (h : ∀ c r, rest = c :: r → digitValue c = none) :
    numbersFrom (.inFrac ds fs) rest = (ds ++ '.' :: fs) :: numbers rest := by
  cases rest with
  | nil => rfl
  | cons c r =>
    have hc := h c r rfl
    obtain ⟨-, -, -, hnext⟩ := scan_other hc ds fs
    rw [numbersFrom_cons, hnext, numbers_cons_other hc]
    rfl

/-- An integer part ends where neither a digit follows nor a point and a digit. -/
theorem numbersFrom_inInt_end (ds : Text) {rest : Text} (h : ∀ c r, rest = c :: r → digitValue c = none)
    (hpoint : ∀ c r, rest = '.' :: c :: r → digitValue c = none) :
    numbersFrom (.inInt ds) rest = ds :: numbers rest := by
  cases rest with
  | nil => rfl
  | cons c r =>
    have hc := h c r rfl
    obtain ⟨-, hnext, -⟩ := scan_other hc ds []
    rw [numbersFrom_cons, hnext, numbers_cons_other hc]
    split
    next hdot =>
      subst hdot
      cases r with
      | nil => rfl
      | cons d r =>
        have hd := hpoint d r rfl
        obtain ⟨-, -, hnext', -⟩ := scan_other hd ds []
        rw [numbersFrom_cons, hnext', numbers_cons_other hd]
        rfl
    next => rfl

/-- No text `more` that follows a maximal run makes a longer literal of it. -/
theorem not_isLiteralText_of_cannotBeExtended {lit more rest : Text} (h : cannotBeExtended lit (more ++ rest)) (hne : more ≠ []) :
    ¬isLiteralText (lit ++ more) := by
  have hlen := List.length_pos_iff.2 hne
  have hmore := h (more.length - 1) (by rw [List.length_append]; omega)
  rwa [Nat.sub_add_cancel hlen, List.take_left] at hmore

/-- A maximal run of the literal grammar at the head of a text is its first number. -/
theorem numbers_of_maximal_literal {lit rest : Text} (hlit : isLiteralText lit) (hmax : cannotBeExtended lit rest) :
    numbers (lit ++ rest) = lit :: numbers rest := by
  rcases (isLiteralText_iff lit).1 hlit with hds | ⟨ds, fs, rfl, hds, hfs⟩
  · rw [numbers_numeral hds]
    refine numbersFrom_inInt_end lit (fun c r hr => ?_) fun c r hr => ?_
    · subst hr
      refine Option.not_isSome_iff_eq_none.1 fun hc => ?_
      exact not_isLiteralText_of_cannotBeExtended (more := [c]) hmax (by simp) (isLiteralText_numeral (isNumeral_concat hds hc))
    · subst hr
      refine Option.not_isSome_iff_eq_none.1 fun hc => ?_
      exact not_isLiteralText_of_cannotBeExtended (more := ['.', c]) hmax (by simp)
        (isLiteralText_point hds (isNumeral_singleton hc))
  · rw [List.append_assoc, List.cons_append, numbers_point hds hfs]
    refine numbersFrom_inFrac_end ds fs fun c r hr => ?_
    subst hr
    refine Option.not_isSome_iff_eq_none.1 fun hc => ?_
    refine not_isLiteralText_of_cannotBeExtended (more := [c]) hmax (by simp) ?_
    rw [List.append_assoc, List.cons_append]
    exact isLiteralText_point hds (isNumeral_concat hfs hc)

/-! ## The tokens of a text (30_encoding.md R76 to R78) -/

theorem isOperator_iff (c : Char) : isOperator c = true ↔ c ∈ ['+', '-', '*', '/'] := by
  simp [isOperator, or_assoc]

theorem operators_eq (text : Text) :
    operators text = (text.filter fun c => c ∈ ['+', '-', '*', '/']).map fun c => [c] := by
  rw [operators]
  congr 2
  funext c
  exact Bool.eq_iff_iff.2 (by rw [isOperator_iff, decide_eq_true_iff])

/-- An operator character is the token of an arithmetic instruction. -/
theorem operationToken_of_mem_operators {t text : Text} (h : t ∈ operators text) :
    ∃ op, operationToken t = some op ∧ op.toNat < 4 := by
  obtain ⟨c, hc, rfl⟩ := List.mem_map.1 h
  obtain ⟨-, hop⟩ := List.mem_filter.1 hc
  have hc := (isOperator_iff c).1 hop
  simp only [List.mem_cons, List.not_mem_nil, or_false] at hc
  rcases hc with rfl | rfl | rfl | rfl <;> exact ⟨_, rfl, by decide⟩

/-- So is the implicit plus. -/
theorem operationToken_of_mem_withLeadingPlus {t text : Text} {nums : List Text}
    (h : t ∈ withLeadingPlus (operators text) nums) : ∃ op, operationToken t = some op ∧ op.toNat < 4 := by
  unfold withLeadingPlus at h
  split at h
  · exact operationToken_of_mem_operators h
  · rcases List.mem_cons.1 h with rfl | h
    · exact ⟨_, rfl, by decide⟩
    · exact operationToken_of_mem_operators h

/-- Every token of a text is an operation or a literal. -/
theorem token_cases {t text : Text} (h : t ∈ tokenize text) :
    (∃ op, operationToken t = some op) ∨ ∃ l, parseLiteral t = some l := by
  simp only [tokenize, List.mem_append, List.mem_cons, List.not_mem_nil, or_false] at h
  rcases h with (h | rfl | rfl) | h
  · obtain ⟨op, hop, -⟩ := operationToken_of_mem_withLeadingPlus h
    exact .inl ⟨op, hop⟩
  · exact .inl ⟨_, rfl⟩
  · exact .inl ⟨_, rfl⟩
  · exact .inr ((exists_parseLiteral_iff t).2 (isLiteralText_of_mem_numbers h))

/-- A rejection is that of one of the tokens. -/
theorem exists_of_checkTokens_error {e : LoadError} :
    ∀ {ts : List Text}, checkTokens ts = .error e → ∃ t ∈ ts, checkToken t = .error e
  | [], h => by cases h
  | t :: ts, h => by
    unfold checkTokens at h
    split at h
    next e' ht =>
      cases h
      exact ⟨t, by simp, ht⟩
    next k _ =>
      split at h
      next e' hts =>
        cases h
        obtain ⟨u, hu, he⟩ := exists_of_checkTokens_error hts
        exact ⟨u, by simp [hu], he⟩
      next => cases h

/-- A tokenized text can only be rejected for a literal that is too large. -/
theorem eq_overflow_of_checkTokens_tokenize {text : Text} {e : LoadError} (h : checkTokens (tokenize text) = .error e) :
    e = .overflow := by
  obtain ⟨t, ht, he⟩ := exists_of_checkTokens_error h
  rcases token_cases ht with ⟨op, hop⟩ | ⟨l, hl⟩
  · cases (checkToken_operation hop).symm.trans he
  · rw [checkToken_literal hl] at he
    split at he <;> cases he
    rfl

/-- The two forms of the operator list (30_encoding.md R77). -/
theorem withLeadingPlus_cases (ops nums : List Text) :
    (withLeadingPlus ops nums = ops ∧ ops.head? = some ['-'] ∧ ops.length = nums.length) ∨
    (withLeadingPlus ops nums = ['+'] :: ops ∧ ¬(ops.head? = some ['-'] ∧ ops.length = nums.length)) := by
  unfold withLeadingPlus
  split
  next h => exact .inl ⟨rfl, h⟩
  next h => exact .inr ⟨rfl, h⟩

/-- Settles O52, from the scanner's literals, its maximal runs, and the tests of the tokens. -/
theorem tokenizerOutput : Obligations.TokenizerOutput := by
  refine ⟨fun text => ⟨⟨_, rfl, rfl, ?operators⟩, fun n hn => ?literals, fun e => eq_overflow_of_checkTokens_tokenize⟩, rfl,
    fun c rest hc => ?other, fun lit rest => numbers_of_maximal_literal⟩
  case operators =>
    rw [← operators_eq]
    rcases withLeadingPlus_cases (operators text) (numbers text) with ⟨heq, hminus⟩ | ⟨heq, hplus⟩ <;> rw [heq]
    · exact .inl ⟨rfl, hminus⟩
    · exact .inr ⟨_, rfl, rfl, hplus⟩
  case literals =>
    have hlit := isLiteralText_of_mem_numbers hn
    exact ⟨hlit, (exists_parseLiteral_iff n).2 hlit⟩
  case other =>
    rw [mem_decimalDigits, Option.not_isSome_iff_eq_none] at hc
    exact numbers_cons_other hc rest

end Sys2Proof.Machine

/-! Statements of 40_alu_arithmetic.md: multiplication and division, the rounded pipeline, and the empty operand. -/

namespace Sys2Proof.Machine

open Sys2Proof.Safety

/-! ## Multiplication and division (40_alu_arithmetic.md R94, R95) -/

/-- The code of a quotient does not fit only for the divisor one half and a dividend of 64 or more. -/
theorem div_code_le_iff {a b : Nat} (ha : a < 256) (hb : b ≠ 0) :
    (4 * a + b) / (2 * b) ≤ 255 ↔ ¬(b = 1 ∧ 128 ≤ a) := by
  rw [← Nat.lt_succ_iff, Nat.div_lt_iff_lt_mul (by omega)]
  constructor
  · rintro h ⟨rfl, hle⟩
    omega
  · intro h
    omega

/-- Settles O7: the codes of the product and of the quotient, and where they fit. -/
theorem aluMultiplicationAndDivision : Obligations.AluMultiplicationAndDivision := by
  intro a b
  have hbzero : b ≠ 0b00000000#8 → b.toNat ≠ 0 := fun hb h => hb (BitVec.eq_of_toNat_eq h)
  have hbone : b.toNat = 1 → b = 0b00000001#8 := fun h => BitVec.eq_of_toNat_eq h
  refine ⟨fun h => ?_, fun h => ?_, fun hb => ?_, fun hb h => ?_, fun hb h => ?_⟩
  · rw [aluMul_eq]
    exact encoded_overflow (by omega)
  · rw [aluMul_eq]
    exact encoded_success (by omega)
  · exact aluDiv_zero (by rw [hb]; rfl)
  · subst hb
    rw [aluDiv_nonzero (by decide)]
    exact encoded_overflow (by simp; omega)
  · rw [aluDiv_nonzero (hbzero hb)]
    exact encoded_success ((div_code_le_iff a.isLt (hbzero hb)).2 fun ⟨h1, h2⟩ => h ⟨hbone h1, h2⟩)

/-! ## The pipeline over the rationals (40_alu_arithmetic.md R91) -/

theorem encQ_val_add (a b : Word) : encQ (val a + val b) = a.toNat + b.toNat := by rw [val_add, encQ_half]

theorem encQ_val_sub {a b : Word} (h : b.toNat ≤ a.toNat) : encQ (val a - val b) = a.toNat - b.toNat := by
  rw [val_sub, ← Nat.cast_sub h, Int.cast_natCast, encQ_half]

theorem encQ_val_mul (a b : Word) : encQ (val a * val b) = enc (a.toNat * b.toNat) 4 := by
  rw [enc_eq_encQ _ (by decide), val, val]
  congr 1
  push_cast
  ring

theorem encQ_val_div {a b : Word} (h : b.toNat ≠ 0) : encQ (val a / val b) = enc a.toNat b.toNat := by
  rw [enc_eq_encQ _ (Nat.pos_of_ne_zero h), val, val, div_div_div_cancel_right₀ two_ne_zero]

theorem val_eq_zero_iff (b : Word) : val b = 0 ↔ b.toNat = 0 := by simp [val]

/-- Settles O8: each operation's code is that of the exact result, and the tests before it are those of the exact values. -/
theorem aluIsTheRoundedPipeline : Obligations.AluIsTheRoundedPipeline := by
  intro a b
  refine ⟨?_, ?_, ?_, ?_⟩
  · rw [encQ_val_add]
    rfl
  · by_cases h : a.toNat < b.toNat
    · rw [aluSub_of_lt h, if_pos ((val_sub_neg_iff a b).2 h)]
    · rw [aluSub_of_le (Nat.le_of_not_lt h), if_neg (mt (val_sub_neg_iff a b).1 h), encQ_val_sub (Nat.le_of_not_lt h)]
      rfl
  · rw [encQ_val_mul]
    rfl
  · by_cases h : b.toNat = 0
    · rw [aluDiv_zero h, if_pos ((val_eq_zero_iff b).2 h)]
    · rw [if_neg (mt (val_eq_zero_iff b).1 h), encQ_val_div h]
      exact if_neg h

/-! ## The empty operand (40_alu_arithmetic.md R104) -/

/-- Settles O14: X1 of each of the four stops on the empty cell, and X2 does not follow. -/
theorem emptyOperandStopsTheRun : Obligations.EmptyOperandStopsTheRun := by
  intro s a hr hm i hi
  obtain ⟨op, hop⟩ := exec_eq_execArith hi
  exact ⟨_, (congrFun hop s).trans (arithmetic_empty hr op hm), rfl⟩

end Sys2Proof.Machine

/-! Statements of 42_control_cycle.md: F3 and DEC, the host's operations, the ends of a cycle and of a run, and that the host and
the loader keep the invariant. -/

namespace Sys2Proof.Machine

open Sys2Proof.Safety

/-! ## F3 and DEC (42_control_cycle.md R138, R139) -/

/-- Settles O23: `PC` decides. -/
theorem fetchIncrementsPc : Obligations.FetchIncrementsPc := by
  intro s hr hp
  have hstep : microStep s = .next (record (fetchC s)) := (microStep_f3 hp).trans (microStepWith_running fetchC hr)
  refine ⟨fun hpc => ⟨_, hstep, ?_⟩, fun hpc => ⟨_, hstep, ?_⟩⟩
  · rw [fetchC_below hpc]
    exact ⟨toNat_pc_succ hpc, rfl⟩
  · rw [fetchC_top hpc]
    rfl

/-- The symbols of the six opcodes in order, and none for any other (30_encoding.md R61). -/
theorem symbolOf_eq_getD (op : Opcode) :
    symbolOf op = [Symbol.plus, .minus, .slash, .star, .save, .halt].getD op.toNat .none := by
  unfold symbolOf
  rcases op.toNat with _ | _ | _ | _ | _ | _ | n <;> rfl

/-- Settles O24: DEC writes what its rule lists and is recorded. -/
theorem decodeLoadsIr : Obligations.DecodeLoadsIr := by
  intro s hr hp
  exact ⟨record (decodeStep s), (microStep_dec hp).trans (microStepWith_running decodeStep hr), rfl,
    symbolOf_eq_getD (opcodeField s.ibr)⟩

/-! ## The host's operations (42_control_cycle.md R135) -/

/-- Settles O34: the operations of the idle core take effect, and the running core has no other than the three. -/
theorem hostOperationsHaveTheirTimes : Obligations.HostOperationsHaveTheirTimes := by
  refine fun s => ⟨rfl, rfl, rfl, fun hidle => ?idle, fun hr op t h => ?running⟩
  case idle =>
    have hr : s.run ≠ .running := by simp [hidle]
    exact ⟨fun a v => whileIdle_idle (fun s => { s with mem := s.mem.write a v }) hidle,
      fun d => whileIdle_idle (fun s => { s with disp := d.display }) hidle, whileIdle_idle startRun hidle,
      step_not_running hr, microStep_not_running hr⟩
  case running =>
    rcases hostStep_next h with hreset | hread | ⟨hmicro, -⟩ | hidle
    · exact .inr (.inl hreset)
    · exact .inr (.inr hread)
    · exact .inl hmicro
    · cases hr.symm.trans hidle

/-! ## The steps that cannot fetch (42_control_cycle.md R137, R138) -/

/-- Settles O36: the step is F1 and the stop in F2, or F1, F2 and the stop in F3. -/
theorem stepStopsWhereNothingCanBeFetched : Obligations.StepStopsWhereNothingCanBeFetched := by
  intro s hr hp
  refine ⟨fun hm => ⟨_, step_fetch_empty hr hp hm, ?_⟩, fun w hpc hm => ⟨_, step_fetch_wrap hr hp hm hpc, ?_⟩⟩
  · exact ⟨rfl, rfl, rfl, rfl, rfl, rfl, rfl, rfl, rfl, rfl, rfl, rfl⟩
  · exact ⟨rfl, rfl, rfl, hpc, rfl, rfl, rfl, rfl, rfl, rfl, rfl, rfl⟩

/-! ## The end of a cycle that begins at F1 (42_control_cycle.md R142, R145) -/

/-- How the cycle from `s` at F1 ends in `t`, with the number of snapshots it leaves. -/
inductive CycleEnds (s t : State) : Nat → Prop where
  /-- The cell `PC` names is `EMPTY`. -/
  | noWord (hm : s.mem.read s.pc = none) (hstop : t.run = .stopped) : CycleEnds s t 2
  /-- `PC` is `1111`. -/
  | noNextCell {w : Word} (hm : s.mem.read s.pc = some w) (hpc : s.pc = 0b1111#4) (hstop : t.run = .stopped) : CycleEnds s t 3
  /-- An arithmetic word with an `EMPTY` operand cell. -/
  | noOperand {w : Word} (hm : s.mem.read s.pc = some w) (hpc : s.pc ≠ 0b1111#4) (hop : (opcodeField w).toNat < 4)
      (hb : s.mem.read (addrField w) = none) (hstop : t.run = .stopped) : CycleEnds s t 5
  /-- An arithmetic word whose ALU operation succeeds. -/
  | goesOn {w b : Word} (hm : s.mem.read s.pc = some w) (hpc : s.pc ≠ 0b1111#4) (hop : (opcodeField w).toNat < 4)
      (hb : s.mem.read (addrField w) = some b) (hrun : t.run = .running) (hph : t.ph = .f1)
      (hnext : t.pc.toNat = s.pc.toNat + 1) (hmem : t.mem = s.mem) : CycleEnds s t 6
  /-- An arithmetic word whose ALU operation fails. -/
  | aluFails {w b : Word} (hm : s.mem.read s.pc = some w) (hpc : s.pc ≠ 0b1111#4) (hop : (opcodeField w).toNat < 4)
      (hb : s.mem.read (addrField w) = some b) (hstop : t.run = .stopped) (hcause : ownCause t.cause = true) : CycleEnds s t 6
  /-- SAVE, END or an invalid opcode. -/
  | ends {w : Word} (hm : s.mem.read s.pc = some w) (hpc : s.pc ≠ 0b1111#4) (hop : 4 ≤ (opcodeField w).toNat)
      (hstop : t.run = .stopped) (hcause : ownCause t.cause = true) : CycleEnds s t 5

/-- The causes of the ALU's failures are the source's own (60_exceptions.md R160). -/
theorem ownCause_of_aluFailures {o : AluOutcome} {c : Cause} {d : Display} (h : (o, c, d) ∈ aluFailures) :
    ownCause c = true := by
  simp only [aluFailures, List.mem_cons, Prod.mk.injEq, List.not_mem_nil, or_false] at h
  rcases h with ⟨-, rfl, -⟩ | ⟨-, rfl, -⟩ | ⟨-, rfl, -⟩ <;> rfl

theorem afterF1_trace_length (s : State) : (afterF1 s).trace.length = s.trace.length + 1 := by simp [afterF1]

theorem afterF2_trace_length (s : State) (w : Word) : (afterF2 s w).trace.length = s.trace.length + 2 := by
  simp [afterF2, afterF1_trace_length]

theorem afterDec_ir (s : State) (w : Word) : (afterDec s w).ir = w := rfl

theorem afterDec_trace_length (s : State) (w : Word) : (afterDec s w).trace.length = s.trace.length + 4 := by
  simp [afterDec, afterF3, afterF2_trace_length]

theorem aluStep_trace (op : Word → Word → AluOutcome) (s : State) : (aluStep op s).trace = s.trace := by
  rcases aluStep_cases op s with ⟨r, -, hs⟩ | ⟨c, d, -, hs⟩ <;> rw [hs]

section Cycle

variable {s : State} (hr : s.run = .running)

include hr

/-- The execute phase of a fetched arithmetic word with a readable operand: X1, and an X2 that goes on or fails. -/
theorem arithmetic_cycleEnds {w b : Word} {op : Word → Word → AluOutcome} (hm : s.mem.read s.pc = some w)
    (hpc : s.pc ≠ 0b1111#4) (ho : aluOf (opcodeField w).toNat = some op) (hb : s.mem.read (addrField w) = some b) :
    CycleEnds s (record (aluStep op (afterX1 b (afterDec s w)))) 6 := by
  rcases aluStep_cases op (afterX1 b (afterDec s w)) with ⟨r, -, hs⟩ | ⟨c, d, hf, hs⟩ <;> rw [hs]
  · exact .goesOn hm hpc (lt_of_aluOf ho) hb hr rfl (toNat_pc_succ hpc) rfl
  · exact .aluFails hm hpc (lt_of_aluOf ho) hb rfl (ownCause_of_aluFailures hf)

variable (hp : s.ph = .f1)

include hp

/-- A running core at F1 always has a next state, the end of its cycle. -/
theorem exists_cycleEnds : ∃ t k, step s = .next t ∧ CycleEnds s t k ∧ t.trace.length = s.trace.length + k := by
  cases hm : s.mem.read s.pc with
  | none => exact ⟨_, 2, step_fetch_empty hr hp hm, .noWord hm rfl, by simp [afterF1_trace_length]⟩
  | some w =>
    by_cases hpc : s.pc = 0b1111#4
    · exact ⟨_, 3, step_fetch_wrap hr hp hm hpc, .noNextCell hm hpc rfl, by simp [afterF2_trace_length]⟩
    · rw [step_fetch hr hp hm hpc]
      have hlen := afterDec_trace_length s w
      have hx1 := cycleFromX1_cases (s := afterDec s w) hr
      rw [afterDec_ir] at hx1
      rcases hx1 with ⟨hop, hb, hs⟩ | ⟨op, b, ho, hb, hs⟩ | ⟨hop, hs⟩ | ⟨hop, hs⟩ | ⟨hop, hs⟩
      · exact ⟨_, 5, hs, .noOperand hm hpc hop hb rfl, by simp [hlen]⟩
      · exact ⟨_, 6, hs, arithmetic_cycleEnds hr hm hpc ho hb, by simp [aluStep_trace, hlen]⟩
      · exact ⟨_, 5, hs, .ends hm hpc (by omega) rfl rfl, by simp [hlen]⟩
      · exact ⟨_, 5, hs, .ends hm hpc (by omega) rfl rfl, by simp [hlen]⟩
      · exact ⟨_, 5, hs, .ends hm hpc (by omega) rfl rfl, by simp [hlen]⟩

end Cycle

/-- Settles O38, by the six ends of a cycle. -/
theorem snapshotsOfACycle : Obligations.SnapshotsOfACycle := by
  intro s hr hp
  obtain ⟨t, k, hs, hk, hlen⟩ := exists_cycleEnds hr hp
  refine ⟨t, hs, hlen.trans (congrArg (s.trace.length + ·) ?_)⟩
  cases hk with
  | noWord hm => rw [hm]
  | noNextCell hm hpc => rw [hm]; exact (if_pos hpc).symm
  | noOperand hm hpc hop hb =>
    rw [hm]
    exact ((if_neg hpc).trans (if_neg fun h => h.2 hb)).symm
  | goesOn hm hpc hop hb | aluFails hm hpc hop hb =>
    rw [hm]
    exact ((if_neg hpc).trans (if_pos ⟨hop, ne_of_eq_of_ne hb (by simp)⟩)).symm
  | ends hm hpc hop =>
    rw [hm]
    exact ((if_neg hpc).trans (if_neg fun h => Nat.not_lt.2 hop h.1)).symm

/-! ## Every run ends (42_control_cycle.md R147) -/

/-- A run of one cycle. -/
theorem core_run_one {s t : State} (h : step s = .next t) : Host.Core.run core 1 s = .next t := core_run_next h 0

/-- A cycle stops within the bound of R147 for its cell, or it goes on from the next cell with six snapshots. -/
theorem CycleEnds.stops_or_goes_on {s t : State} {k : Nat} (h : CycleEnds s t k) :
    (t.run = .stopped ∧ k ≤ 6 * (15 - s.pc.toNat) + 3) ∨
    (t.run = .running ∧ t.ph = .f1 ∧ t.pc.toNat = s.pc.toNat + 1 ∧ k = 6) := by
  cases h with
  | noWord hm hstop => exact .inl ⟨hstop, by omega⟩
  | noNextCell hm hpc hstop => exact .inl ⟨hstop, by omega⟩
  | noOperand hm hpc hop hb hstop => exact .inl ⟨hstop, by bv_omega⟩
  | goesOn hm hpc hop hb hrun hph hnext => exact .inr ⟨hrun, hph, hnext, rfl⟩
  | aluFails hm hpc hop hb hstop => exact .inl ⟨hstop, by bv_omega⟩
  | ends hm hpc hop hstop => exact .inl ⟨hstop, by bv_omega⟩

/-- Settles O39, by induction on the cells left above `PC`. -/
theorem everyRunEnds : Obligations.EveryRunEnds := by
  intro s hr hp
  induction hd : 15 - s.pc.toNat using Nat.strong_induction_on generalizing s with
  | h d ih =>
    obtain ⟨t, k, hs, hk, hlen⟩ := exists_cycleEnds hr hp
    have hcell := s.pc.isLt
    rcases hk.stops_or_goes_on with ⟨hstop, hle⟩ | ⟨hrun, hph, hnext, rfl⟩
    · exact ⟨1, t, le_rfl, by omega, core_run_one hs, hstop, by omega⟩
    · have hcell' := t.pc.isLt
      obtain ⟨n, u, h1, hn, hu, hstop, htrace⟩ := ih (15 - t.pc.toNat) (by omega) t hrun hph rfl
      exact ⟨n + 1, u, by omega, by omega, (core_run_next hs n).trans hu, hstop, by omega⟩

/-! ## The host and the loader keep the invariant (42_control_cycle.md R135, 30_encoding.md R71 to R75) -/

section Idle

variable {s : State} (h : MachineInvariant s) (hidle : s.run = .idle)

include h hidle

/-- On an idle core the invariant says nothing of the display and the trace, and of the memory its form alone. -/
theorem idle_keeps_invariant {m : Memory} (hm : m.wf) (d : Display) (trace : List Snapshot) :
    MachineInvariant { s with mem := m, disp := d, trace := trace } := by
  obtain ⟨hf1, hmar, -, hphase⟩ := h.phase
  have hread : s.ph = .f3 → m.read s.mar = some s.ibr := fun hp => nomatch (hf1 hidle).symm.trans hp
  exact ⟨hm, h.cause, ⟨hf1, hmar, hread, hphase⟩, h.lights, fun hrun => absurd hidle hrun⟩

theorem startRun_keeps_invariant : MachineInvariant (startRun s) := by
  obtain ⟨hf1, hphase⟩ := h.phase
  obtain ⟨hon, hlights⟩ := h.lights
  have hp := hf1 hidle
  have hcause : s.cause = .none := by
    by_contra hc
    cases hidle.symm.trans (h.cause.2 hc)
  refine ⟨h.memWf, ?cause, ⟨nofun, hphase⟩, ⟨?on, hlights⟩, fun _ => rfl⟩
  case cause => simp [causeAgrees, hcause]
  case on => simp [hon, hp]

theorem failLoad_keeps_invariant {e : LoadError} {t : State} (ht : failLoad e s = .next t) : MachineInvariant t := by
  cases (failLoad_idle e hidle).symm.trans ht
  exact idle_keeps_invariant h hidle h.memWf e.display _

end Idle

theorem hostStep_keeps_invariant {op : HostOp} {s t : State} (h : MachineInvariant s) (ht : hostStep op s = .next t) :
    MachineInvariant t := by
  cases op with
  | reset =>
    cases ht
    exact resetMeetsTheInvariant
  | write a v =>
    rw [hostStep, hostWrite] at ht
    obtain ⟨hidle, rfl⟩ := whileIdle_next ht
    exact idle_keeps_invariant h hidle (write_wf h.memWf a v) s.disp s.trace
  | setDisplay e =>
    rw [hostStep, hostSetDisplay] at ht
    obtain ⟨hidle, rfl⟩ := whileIdle_next ht
    exact idle_keeps_invariant h hidle h.memWf e.display s.trace
  | start =>
    obtain ⟨hidle, rfl⟩ := whileIdle_next ht
    exact startRun_keeps_invariant h hidle
  | microStep => exact microStepKeepsTheInvariant s t h ht
  | readSnapshot =>
    cases ht
    exact h

/-- Only an idle core can fail a load. -/
theorem idle_of_failLoad {e : LoadError} {s t : State} (h : failLoad e s = .next t) : s.run = .idle := by
  unfold failLoad at h
  split at h
  next u hu =>
    obtain ⟨hidle, -⟩ := whileIdle_next hu
    exact hidle
  next => cases h
  next => cases h

theorem load_keeps_invariant {ts : List Text} {s t : State} (h : MachineInvariant s) (ht : load ts s = .next t) :
    MachineInvariant t := by
  unfold load at ht
  split at ht
  next e _ => exact failLoad_keeps_invariant h (idle_of_failLoad ht) ht
  next ks _ =>
    split at ht
    next =>
      obtain ⟨hidle, rfl⟩ := whileIdle_next ht
      exact idle_keeps_invariant h hidle (writeTokens_wf _ ks 0 s.mem h.memWf) s.disp s.trace
    next => cases ht

theorem loadAndStart_keeps_invariant {ts : List Text} {s t : State} (h : MachineInvariant s)
    (ht : loadAndStart ts s = .next t) : MachineInvariant t := by
  unfold loadAndStart at ht
  split at ht
  next e _ => exact failLoad_keeps_invariant h (idle_of_failLoad ht) ht
  next =>
    split at ht
    next u hu => exact hostStep_keeps_invariant (op := .start) (load_keeps_invariant h hu) ht
    next => cases ht
    next => cases ht

/-- Settles O44: the operations one by one, and the boot from the reset state. -/
theorem hostAndLoaderKeepTheInvariant : Obligations.HostAndLoaderKeepTheInvariant :=
  ⟨fun _ _ _ => hostStep_keeps_invariant, fun _ _ _ => load_keeps_invariant, fun _ _ _ => loadAndStart_keeps_invariant,
    fun _ _ => loadAndStart_keeps_invariant resetMeetsTheInvariant⟩

end Sys2Proof.Machine

/-! Statements of 60_exceptions.md: the one cause each place can raise. -/

namespace Sys2Proof.Machine

/-! ## The failures of the ALU (40_alu_arithmetic.md R92 to R95) -/

/-- The end of the pipeline fails by OVERFLOW only. -/
theorem encoded_cases (r : Nat) : encoded r = .overflow ∨ ∃ w, encoded r = .success w := by
  unfold encoded
  split
  · exact .inl rfl
  · exact .inr ⟨_, rfl⟩

/-- How the operation of the opcode `n` fails on the operand `b`: SUB by UNDERFLOW, DIV by a zero divisor first, and the others
by OVERFLOW. -/
def aluFailureCause (n : Nat) (b : Word) : Cause :=
  if n = 1 then .underflow else if n = 2 ∧ b = 0b00000000#8 then .divideByZero else .overflow

theorem mem_aluFailures_overflow {c : Cause} {d : Display} :
    (AluOutcome.overflow, c, d) ∈ aluFailures ↔ c = .overflow ∧ d = .overflow := by simp [aluFailures]

theorem mem_aluFailures_underflow {c : Cause} {d : Display} :
    (AluOutcome.underflow, c, d) ∈ aluFailures ↔ c = .underflow ∧ d = .underflow := by simp [aluFailures]

theorem mem_aluFailures_divideByZero {c : Cause} {d : Display} :
    (AluOutcome.divideByZero, c, d) ∈ aluFailures ↔ c = .divideByZero ∧ d = .undefined := by simp [aluFailures]

/-- A success is no failure. -/
theorem success_not_mem_aluFailures (r : Word) (c : Cause) (d : Display) : (AluOutcome.success r, c, d) ∉ aluFailures := by
  simp [aluFailures]

theorem cause_of_encoded {r : Nat} {c : Cause} {d : Display} (h : (encoded r, c, d) ∈ aluFailures) : c = .overflow := by
  rcases encoded_cases r with he | ⟨w, he⟩ <;> rw [he] at h
  · exact (mem_aluFailures_overflow.1 h).1
  · exact absurd h (success_not_mem_aluFailures w c d)

/-- By the four opcodes that have an operation. -/
theorem cause_of_aluFailure {n : Nat} {op : Word → Word → AluOutcome} {a b : Word} {c : Cause} {d : Display}
    (ho : aluOf n = some op) (h : (op a b, c, d) ∈ aluFailures) : c = aluFailureCause n b := by
  have hn := lt_of_aluOf ho
  interval_cases n <;> cases ho
  · exact cause_of_encoded h
  · by_cases hlt : a.toNat < b.toNat
    · rw [aluSub_of_lt hlt, mem_aluFailures_underflow] at h
      exact h.1
    · obtain ⟨r, hr, -⟩ := aluSub_success (Nat.le_of_not_lt hlt)
      rw [hr] at h
      exact absurd h (success_not_mem_aluFailures r c d)
  · by_cases hb : b = 0b00000000#8
    · rw [aluDiv_zero (by rw [hb]; rfl), mem_aluFailures_divideByZero] at h
      simp [aluFailureCause, hb, h.1]
    · rw [aluDiv_nonzero fun h0 => hb (BitVec.eq_of_toNat_eq h0)] at h
      simp [aluFailureCause, hb, cause_of_encoded h]
  · rw [aluMul_eq] at h
    exact cause_of_encoded h

/-! ## Where each cause is raised (60_exceptions.md R160, R166) -/

/-- The cause a stop in X1 has, by the opcode (42_control_cycle.md R140). -/
def x1Cause (n : Nat) : Cause :=
  if n < 4 then .emptyRead else if n = 4 then .save else if n = 5 then .halt else .invalidOpcode

/-- The cause a stop of the micro-step that comes next has; F1 and DEC never stop. -/
def stopCause (s : State) : Cause :=
  match s.ph with
  | .f1 => .none
  | .f2 => .emptyRead
  | .f3 => .pcWrap
  | .dec => .none
  | .x1 => x1Cause (opcodeField s.ir).toNat
  | .x2 => aluFailureCause (opcodeField s.ir).toNat s.re

theorem cause_of_microStep_stop {s t : State} (h : microStep s = .next t) (hstop : t.run = .stopped) :
    t.cause = stopCause s := by
  unfold stopCause
  obtain ⟨hr, u, rfl, ⟨-, rfl⟩ | ⟨hp, -, rfl⟩ | ⟨-, w, -, rfl⟩ | ⟨hp, -, rfl⟩ | ⟨-, -, rfl⟩ | ⟨-, rfl⟩ | ⟨hp, hop, -, rfl⟩ |
    ⟨-, -, b, -, rfl⟩ | ⟨hp, hop, rfl⟩ | ⟨hp, hop, rfl⟩ | ⟨hp, hop, rfl⟩ | ⟨hp, op, ho, ⟨r, -, rfl⟩ | ⟨c, d, hf, rfl⟩⟩⟩ :=
    microStep_inversion h
  · cases hr.symm.trans hstop
  · rw [hp]; rfl
  · cases hr.symm.trans hstop
  · rw [hp]; rfl
  · cases hr.symm.trans hstop
  · cases hr.symm.trans hstop
  · simp [hp, x1Cause, hop]
  · cases hr.symm.trans hstop
  · simp [hp, x1Cause, hop]
  · simp [hp, x1Cause, hop]
  · have h4 : ¬(opcodeField s.ir).toNat < 4 := by omega
    have h4' : (opcodeField s.ir).toNat ≠ 4 := by omega
    have h5 : (opcodeField s.ir).toNat ≠ 5 := by omega
    simp [hp, x1Cause, h4, h4', h5]
  · cases hr.symm.trans hstop
  · rw [hp]
    exact cause_of_aluFailure ho hf

/-- Settles O31: each place has its one cause, so the equivalences are read off the phase and the opcode. -/
theorem everyCauseHasItsPlace : Obligations.EveryCauseHasItsPlace := by
  intro s t h hstop
  rw [cause_of_microStep_stop h hstop, stopCause, opcodeField]
  generalize (s.ir.extractLsb' 4 4).toNat = n
  cases s.ph with
  | f1 | f2 | f3 | dec => simp
  | x1 =>
    unfold x1Cause
    split_ifs <;> simp <;> omega
  | x2 =>
    unfold aluFailureCause
    split_ifs with hsub hzero
    · simp [hsub]
    · simp [hzero]
    · simpa [hsub] using hzero

end Sys2Proof.Machine

/-! Statements of 70_reset_and_hazards.md: how a well-placed program ends, and the boot of a tokenized expression. -/

namespace Sys2Proof.Machine

open Sys2Proof.Safety

/-! ## A well-placed program ends by a cause of the source's own (70_reset_and_hazards.md R189) -/

theorem word_of_arithmeticCell {m : Memory} {a : Addr} (h : arithmeticCell m a.toNat = true) :
    ∃ w b, m.read a = some w ∧ (opcodeField w).toNat < 4 ∧ m.read (addrField w) = some b := by
  rw [arithmeticCell, BitVec.ofNat_toNat, BitVec.setWidth_eq] at h
  cases hm : m.read a with
  | none => simp [hm] at h
  | some w =>
    obtain ⟨hop, hb⟩ : (opcodeField w).toNat < 4 ∧ (m.read (addrField w)).isSome := by
      simpa [hm, arithmeticOpcode] using h
    obtain ⟨b, hb⟩ := Option.isSome_iff_exists.1 hb
    exact ⟨w, b, rfl, hop, hb⟩

theorem word_of_endingCell {m : Memory} {a : Addr} (h : endingCell m a.toNat = true) :
    ∃ w, m.read a = some w ∧ 4 ≤ (opcodeField w).toNat := by
  rw [endingCell, BitVec.ofNat_toNat, BitVec.setWidth_eq] at h
  cases hm : m.read a with
  | none => simp [hm] at h
  | some w => exact ⟨w, rfl, by simpa [hm, arithmeticOpcode] using h⟩

/-- The word `PC` names in a well-placed program ends the run, or it is arithmetic with a readable operand. -/
theorem word_of_runsToOwnEnd {m : Memory} {a : Addr} {last : Nat} (h : runsToOwnEnd m a.toNat last) :
    ∃ w, m.read a = some w ∧ a ≠ 0b1111#4 ∧
      (4 ≤ (opcodeField w).toNat ∨ a.toNat < last ∧ ∃ b, m.read (addrField w) = some b) := by
  obtain ⟨hle, hlast, harith, hend⟩ := h
  have hpc : a ≠ 0b1111#4 := by rintro rfl; exact absurd hle (by simpa using hlast)
  rcases hle.lt_or_eq with hlt | rfl
  · obtain ⟨w, b, hm, -, hb⟩ := word_of_arithmeticCell (harith _ hlt le_rfl)
    exact ⟨w, hm, hpc, .inr ⟨hlt, b, hb⟩⟩
  · obtain ⟨w, hm, hop⟩ := word_of_endingCell hend
    exact ⟨w, hm, hpc, .inl hop⟩

/-- A cycle of a well-placed program stops by a cause of the source's own, or the rest of the program is well placed. -/
theorem CycleEnds.of_runsToOwnEnd {s t : State} {k last : Nat} (h : CycleEnds s t k)
    (hw : runsToOwnEnd s.mem s.pc.toNat last) :
    (t.run = .stopped ∧ ownCause t.cause = true) ∨
    (t.run = .running ∧ t.ph = .f1 ∧ t.pc.toNat = s.pc.toNat + 1 ∧ runsToOwnEnd t.mem t.pc.toNat last) := by
  obtain ⟨w, hm, hpc, hw'⟩ := word_of_runsToOwnEnd hw
  cases h with
  | noWord hm' => cases hm.symm.trans hm'
  | noNextCell _ hpc' => exact absurd hpc' hpc
  | noOperand hm' _ hop hb =>
    cases hm.symm.trans hm'
    rcases hw' with hop' | ⟨-, b, hb'⟩
    · omega
    · cases hb.symm.trans hb'
  | goesOn hm' _ hop hb hrun hph hnext hmem =>
    cases hm.symm.trans hm'
    obtain ⟨hlt, -⟩ := hw'.resolve_left (by omega)
    obtain ⟨-, hlast, harith, hend⟩ := hw
    rw [hmem, hnext]
    exact .inr ⟨hrun, hph, rfl, hlt, hlast, fun n hn hle => harith n hn (by omega), hend⟩
  | aluFails _ _ _ _ hstop hcause => exact .inl ⟨hstop, hcause⟩
  | ends _ _ _ hstop hcause => exact .inl ⟨hstop, hcause⟩

/-- Settles O40, by induction on the cells left to the ending word. -/
theorem wellPlacedWordsEndByAnOwnCause : Obligations.WellPlacedWordsEndByAnOwnCause := by
  intro s last hr hp hw
  induction hd : last - s.pc.toNat using Nat.strong_induction_on generalizing s with
  | h d ih =>
    have ⟨hle, _⟩ := hw
    obtain ⟨t, k, hs, hk, -⟩ := exists_cycleEnds hr hp
    rcases hk.of_runsToOwnEnd hw with ⟨hstop, hcause⟩ | ⟨hrun, hph, hnext, hw'⟩
    · exact ⟨1, t, by omega, core_run_one hs, hstop, hcause⟩
    · have ⟨hle', _⟩ := hw'
      obtain ⟨n, u, hn, hu, hstop, hcause⟩ := ih (last - t.pc.toNat) (by omega) t hrun hph hw' rfl
      exact ⟨n + 1, u, by omega, (core_run_next hs n).trans hu, hstop, hcause⟩

/-! ## The layout of a well-placed program (70_reset_and_hazards.md R189) -/

theorem arithmeticCell_of_instrWord {m : Memory} {n : Nat} {op : Opcode} {a : Addr}
    (hm : m.read (BitVec.ofNat 4 n) = some (instrWord op a)) (hop : op.toNat < 4) (ha : (m.read a).isSome) :
    arithmeticCell m n = true := by
  simp [arithmeticCell, hm, Laws.Fields.opcodeField_instrWord, Laws.Fields.addrField_instrWord, arithmeticOpcode, hop, ha]

theorem endingCell_of_instrWord {m : Memory} {n : Nat} {op : Opcode} {a : Addr}
    (hm : m.read (BitVec.ofNat 4 n) = some (instrWord op a)) (hop : 4 ≤ op.toNat) : endingCell m n = true := by
  simp [endingCell, hm, Laws.Fields.opcodeField_instrWord, arithmeticOpcode, hop]

/-- What the loader lays out is well placed when arithmetic tokens, each with a token in its operand cell, come before a
SAVE or an END. -/
theorem runsToOwnEnd_writeTokens {k n : Nat} {ks : List LoaderToken} (m : Memory) (hlen : ks.length ≤ 16) (hn : n < 15)
    (harith : ∀ i < n, ∃ op, ks[i]? = some (.operation op) ∧ op.toNat < 4 ∧ k + i < ks.length)
    (hend : ∃ op, ks[n]? = some (.operation op) ∧ 4 ≤ op.toNat) : runsToOwnEnd (writeTokens k 0 ks m) 0 n := by
  obtain ⟨hwritten, -⟩ := writeTokens_read k ks 0 m (by omega)
  simp only [Nat.zero_add] at hwritten
  refine ⟨Nat.zero_le n, hn, fun i hi _ => ?_, ?_⟩
  · obtain ⟨op, htoken, hop, hlt⟩ := harith i hi
    have hoperand := hwritten (k + i) _ (List.getElem?_eq_getElem hlt)
    exact arithmeticCell_of_instrWord (hwritten i _ htoken) hop (by rw [hoperand]; rfl)
  · obtain ⟨op, htoken, hop⟩ := hend
    exact endingCell_of_instrWord (hwritten n _ htoken) hop

/-! ## The loader's tokens of an expression (30_encoding.md R78) -/

/-- A token list all of whose tokens are accepted. -/
theorem checkTokens_all_ok {P : LoaderToken → Prop} :
    ∀ {ts : List Text}, (∀ t ∈ ts, ∃ k, checkToken t = .ok k ∧ P k) →
      ∃ ks, checkTokens ts = .ok ks ∧ ks.length = ts.length ∧ ∀ k ∈ ks, P k
  | [], _ => ⟨[], rfl, rfl, by simp⟩
  | t :: ts, h => by
    obtain ⟨⟨k, hk, hP⟩, hts⟩ := List.forall_mem_cons.1 h
    obtain ⟨ks, hks, hlen, hPs⟩ := checkTokens_all_ok hts
    exact ⟨k :: ks, by simp only [checkTokens, hk, hks], by simp [hlen], List.forall_mem_cons.2 ⟨hP, hPs⟩⟩

/-- The token of an arithmetic instruction. -/
def LoaderToken.isArithmetic (k : LoaderToken) : Prop := ∃ op : Opcode, k = .operation op ∧ op.toNat < 4

/-- The loader's tokens of an expression with the arithmetic tokens `ops` and the literals `lits`. -/
def expressionTokens (ops lits : List LoaderToken) : List LoaderToken :=
  ops ++ [.operation 0b0100#4, .operation 0b0101#4] ++ lits

theorem expressionTokens_length (ops lits : List LoaderToken) :
    (expressionTokens ops lits).length = ops.length + 2 + lits.length := by simp [expressionTokens]; omega

/-- All opcode tokens stand first when operations are put before literals. -/
theorem operationsFirst_append {a b : List LoaderToken} (ha : ∀ k ∈ a, k.isOperation = true)
    (hb : ∀ k ∈ b, k.isOperation = false) : operationsFirst (a ++ b) = true := by
  induction a with
  | nil =>
    cases b with
    | nil => rfl
    | cons k b =>
      obtain ⟨hk, hrest⟩ := List.forall_mem_cons.1 hb
      cases k with
      | operation op => cases hk
      | literal l => simpa [operationsFirst] using hrest
  | cons k a ih =>
    obtain ⟨hk, hrest⟩ := List.forall_mem_cons.1 ha
    cases k with
    | operation op => exact ih hrest
    | literal l => cases hk

theorem operationCount_append {a b : List LoaderToken} (ha : ∀ k ∈ a, k.isOperation = true)
    (hb : ∀ k ∈ b, k.isOperation = false) : operationCount (a ++ b) = a.length := by
  rw [operationCount, List.countP_append, List.countP_eq_length.2 ha, List.countP_eq_zero.2 (by simpa using hb), Nat.add_zero]

section Expression

variable {ops lits : List LoaderToken} (hops : ∀ k ∈ ops, k.isArithmetic) (hlits : ∀ k ∈ lits, k.isOperation = false)

include hops

theorem isOperation_of_mem_operations : ∀ k ∈ ops ++ [.operation 0b0100#4, .operation 0b0101#4], k.isOperation = true := by
  intro k hk
  simp only [List.mem_append, List.mem_cons, List.not_mem_nil, or_false] at hk
  rcases hk with hk | rfl | rfl
  · obtain ⟨op, rfl, -⟩ := hops k hk
    rfl
  · rfl
  · rfl

include hlits

theorem operationCount_expressionTokens : operationCount (expressionTokens ops lits) = ops.length + 2 :=
  (operationCount_append (isOperation_of_mem_operations hops) hlits).trans (by simp)

variable (hlen : ops.length = lits.length) (hsix : lits.length ≤ 6)

include hlen hsix

/-- Six numbers make eight opcode tokens and fourteen words, within the bounds of 30_encoding.md R74. -/
theorem loadDefined_expressionTokens : loadDefined (expressionTokens ops lits) = true := by
  have hfirst : operationsFirst (expressionTokens ops lits) = true :=
    operationsFirst_append (isOperation_of_mem_operations hops) hlits
  simp only [loadDefined, hfirst, operationCount_expressionTokens hops hlits, expressionTokens_length, Config.nCells,
    Config.maxOpcodeTokens, Bool.true_and, Bool.and_eq_true, decide_eq_true_eq]
  omega

/-- The arithmetic words stand in the first cells, SAVE after them, and each operand address is that of a literal. -/
theorem runsToOwnEnd_expressionTokens (m : Memory) :
    runsToOwnEnd (writeTokens (operationCount (expressionTokens ops lits)) 0 (expressionTokens ops lits) m) 0 lits.length := by
  have hcount := operationCount_expressionTokens hops hlits
  have htotal := expressionTokens_length ops lits
  refine runsToOwnEnd_writeTokens m (by omega) (by omega) (fun i hi => ?_) ⟨0b0100#4, ?_, by decide⟩
  · have hi' : i < ops.length := by omega
    obtain ⟨op, hop, hlt⟩ := hops ops[i] (List.getElem_mem hi')
    refine ⟨op, ?_, hlt, by omega⟩
    rw [expressionTokens, List.append_assoc, List.getElem?_append_left hi', List.getElem?_eq_getElem hi', hop]
  · simp [expressionTokens, ← hlen]

end Expression

/-- The tokens of an expression text whose literals all fit are accepted as arithmetic tokens, SAVE, END and literals. -/
theorem checkTokens_tokenize {text : Text} (hfits : ∀ n ∈ numbers text, ∀ l, parseLiteral n = some l → literalCode l ≤ 255) :
    ∃ ops lits, checkTokens (tokenize text) = .ok (expressionTokens ops lits) ∧
      ops.length = (withLeadingPlus (operators text) (numbers text)).length ∧ lits.length = (numbers text).length ∧
      (∀ k ∈ ops, k.isArithmetic) ∧ ∀ k ∈ lits, k.isOperation = false := by
  obtain ⟨ops, hops, hopsLen, harith⟩ := checkTokens_all_ok (P := LoaderToken.isArithmetic)
    (ts := withLeadingPlus (operators text) (numbers text)) fun t ht => by
      obtain ⟨op, hop, hlt⟩ := operationToken_of_mem_withLeadingPlus ht
      exact ⟨_, checkToken_operation hop, op, rfl, hlt⟩
  obtain ⟨lits, hlits, hlitsLen, hliteral⟩ := checkTokens_all_ok (P := fun k => k.isOperation = false)
    (ts := numbers text) fun n hn => by
      obtain ⟨l, hl⟩ := (exists_parseLiteral_iff n).2 (isLiteralText_of_mem_numbers hn)
      exact ⟨_, (checkToken_literal hl).trans (if_neg (Nat.not_lt.2 (hfits n hn l hl))), rfl⟩
  have hwords : checkTokens [['S', 'A', 'V', 'E'], ['E', 'N', 'D']] =
      .ok [.operation 0b0100#4, .operation 0b0101#4] := rfl
  exact ⟨ops, lits, checkTokens_append (checkTokens_append hops hwords) hlits, hopsLen, hlitsLen, harith, hliteral⟩

/-! ## Boot (70_reset_and_hazards.md R188) -/

/-- The boot of an accepted token list within the bounds of a load. -/
theorem boot_defined {text : Text} {ks : List LoaderToken} (hc : checkTokens (tokenize text) = .ok ks)
    (hd : loadDefined ks = true) :
    boot text = .next (startRun { State.reset with mem := writeTokens (operationCount ks) 0 ks [] }) := by
  have hload := load_defined (s := State.reset) rfl hc hd
  simp only [boot, loadAndStart, hc, hload, hostStart]
  exact whileIdle_idle startRun rfl

/-- Settles O53: what the boot lays out is well placed, and a well-placed program ends by a cause of the source's own. -/
theorem bootedExpressionEndsByAnOwnCause : Obligations.BootedExpressionEndsByAnOwnCause := by
  intro text hcount hsix hfits
  obtain ⟨ops, lits, hc, hops, hlits, harith, hliteral⟩ := checkTokens_tokenize hfits
  have hlen : ops.length = lits.length := by rw [hops, hcount, hlits]
  rw [← hlits] at hsix ⊢
  have hplaced := runsToOwnEnd_expressionTokens harith hliteral hlen hsix []
  have hboot := boot_defined hc (loadDefined_expressionTokens harith hliteral hlen hsix)
  obtain ⟨n, t, -, hrun⟩ := wellPlacedWordsEndByAnOwnCause
    (startRun { State.reset with mem := writeTokens _ 0 (expressionTokens ops lits) [] }) _ rfl rfl hplaced
  exact ⟨_, hboot, rfl, rfl, rfl, rfl, hplaced, n, t, hrun⟩

end Sys2Proof.Machine
